-- ==== Sys2Proof/Word.lean ====
section
/-! DEFINITION. The two widths of the hardware (00_scope.md R6): a byte is 8 bits, a word and an address are 16 bits. -/

namespace Sys2Proof

/-- An 8-bit value: a register A to L, a memory byte, an opcode (R6). -/
abbrev Byte := BitVec 8

/-- A 16-bit value: a register pair, SP, PC, an address, an immediate nn (R6). -/
abbrev Word := BitVec 16

end Sys2Proof
end

