-- ==== Sys2Proof/Syntax.lean ====
section
/-! DEFINITION. The instructions: one constructor for each row of spec/opcode_table.json, the default row UNDEFINED among
them (30_encoding.md R72, R75). -/

namespace Sys2Proof

/-- An instruction as the dispatch unit sees it: which operation, with the immediate that follows the opcode (R67, R68). -/
inductive Instr where
  /-- NOP (opcode 0x00, R90). -/
  | nop
  /-- JUMP nn (opcode 0xC3, R91). -/
  | jumpNn (nn : Word)
  /-- XOR A,A (opcode 0xAF, R92). -/
  | xorAA
  /-- LOAD HL,nn (opcode 0x21, R95). -/
  | loadHLnn (nn : Word)
  /-- LOAD C,n (opcode 0x0E, R96). -/
  | loadCn (n : Byte)
  /-- LOAD B,n (opcode 0x06, R97). -/
  | loadBn (n : Byte)
  /-- UNDEFINED: an opcode byte with no defined operation (R75, R86). -/
  | undefined (op : Byte)
  deriving DecidableEq, Repr

end Sys2Proof
end

