-- ==== Sys2Proof/WellFormed.lean ====
section
/-! DEFINITION. Which terms of Instr are instructions: every immediate is legal (30_encoding.md R78), and UNDEFINED holds
only a byte that is not one of the six defined opcodes (R75). -/

namespace Sys2Proof

/-- The six defined opcode bytes (R72). -/
def definedOpcodes : List Byte := [0x00#8, 0xC3#8, 0xAF#8, 0x21#8, 0x0E#8, 0x06#8]

/-- The instruction is one the hardware can be given (R75, R78). -/
def Instr.wellFormed : Instr → Bool
  | .nop => true
  | .jumpNn _ => true
  | .xorAA => true
  | .loadHLnn _ => true
  | .loadCn _ => true
  | .loadBn _ => true
  | .undefined op => !(definedOpcodes.contains op)

end Sys2Proof
end

