-- ==== Sys2Proof/Decode.lean ====
section
/-! DEFINITION. Decoding bytes to instructions and encoding instructions to bytes, both written from 30_encoding.md's
formats (R68) and opcode map (R72, R75, R76). -/

namespace Sys2Proof

/-- `v[15:8]`. -/
def highByte (v : Word) : Byte := v.extractLsb' 8 8

/-- `v[7:0]`. -/
def lowByte (v : Word) : Byte := v.extractLsb' 0 8

/-- `hi ++ lo`, that is `(hi << 8) | lo` (00_scope.md R12). -/
def wordOf (hi lo : Byte) : Word := hi ++ lo

/-- The eleven undefined opcode bytes classified IllegalOpcode. PRESUMED: the list is R76's, which marks it as general
knowledge (GK1); it selects the fault kind only (unsafe for claims about the kind: log entry 4). -/
def illegalOpcodes : List Byte :=
  [0xD3#8, 0xDB#8, 0xDD#8, 0xE3#8, 0xE4#8, 0xEB#8, 0xEC#8, 0xED#8, 0xF4#8, 0xFC#8, 0xFD#8]

/-- Whether an undefined opcode byte is of kind IllegalOpcode rather than UnimplementedOpcode (R76; log entry 4). -/
def isIllegalOpcode (op : Byte) : Bool := illegalOpcodes.contains op

/-- What one opcode byte selects: an operation in one of the three formats of R68, still waiting for its operand bytes. -/
inductive Format where
  /-- Format OP: no operand byte follows. -/
  | op (i : Instr)
  /-- Format OP_N8: one operand byte `n` follows. -/
  | opN8 (f : Byte → Instr)
  /-- Format OP_N16: two operand bytes, `nn[7:0]` then `nn[15:8]`, follow. -/
  | opN16 (f : Word → Instr)

/-- The opcode map (R72): total on bytes, matching all eight bits, everything else undefined (R73 to R75, R84). -/
def decodeOpcode (op : Byte) : Format :=
  if op = 0x00#8 then .op .nop
  else if op = 0xC3#8 then .opN16 .jumpNn
  else if op = 0xAF#8 then .op .xorAA
  else if op = 0x21#8 then .opN16 .loadHLnn
  else if op = 0x0E#8 then .opN8 .loadCn
  else if op = 0x06#8 then .opN8 .loadBn
  else .op (.undefined op)

/-- Why a list of bytes holds no whole instruction at its head. -/
inductive DecodeError where
  /-- There is no opcode byte. -/
  | noOpcode
  /-- The bytes end before the operand of opcode `op` does. -/
  | truncated (op : Byte)
  deriving DecidableEq, Repr

/-- The instruction at the head of a list of bytes, and the bytes after it (R67, R68, R70, R71). -/
def decode : List Byte → Except DecodeError (Instr × List Byte)
  | [] => .error .noOpcode
  | op :: rest =>
    match decodeOpcode op with
    | .op i => .ok (i, rest)
    | .opN8 f =>
      match rest with
      | n :: rest => .ok (f n, rest)
      | [] => .error (.truncated op)
    | .opN16 f =>
      match rest with
      | lo :: hi :: rest => .ok (f (wordOf hi lo), rest)
      | _ => .error (.truncated op)

/-- The bytes of an instruction, at increasing addresses (R67, R68, R72). -/
def encode : Instr → List Byte
  | .nop => [0x00#8]
  | .jumpNn nn => [0xC3#8, lowByte nn, highByte nn]
  | .xorAA => [0xAF#8]
  | .loadHLnn nn => [0x21#8, lowByte nn, highByte nn]
  | .loadCn n => [0x0E#8, n]
  | .loadBn n => [0x06#8, n]
  | .undefined op => [op]

/-- The length in bytes (R69); for an undefined opcode the one opcode byte that is consumed (R86). -/
def instrLength : Instr → Nat
  | .nop => 1
  | .jumpNn _ => 3
  | .xorAA => 1
  | .loadHLnn _ => 3
  | .loadCn _ => 2
  | .loadBn _ => 2
  | .undefined _ => 1

/-- The three bytes, lowest address first, of an instruction whose low `nbits` bits are those of `w` and whose other bits
are 0, three bytes being the longest instruction (R68). -/
def tableBytes (nbits w : Nat) : List Byte :=
  let v := w % 2 ^ nbits
  [BitVec.ofNat 8 v, BitVec.ofNat 8 (v / 0x100), BitVec.ofNat 8 (v / 0x10000)]

/-- The instruction the decoder reads from a table row's word, bit 0 being the least significant bit of the first byte. -/
def decodeTableWord (nbits w : Nat) : Option Instr :=
  match decode (tableBytes nbits w) with
  | .ok (i, _) => some i
  | .error _ => none

end Sys2Proof
end

