-- ==== Sys2Proof/Config.lean ====
section
/-! DEFINITION. The constants of this hardware (00_scope.md R7) and its one open constant, WRAM_PAGES (R8). -/

namespace Sys2Proof

/-- ROM_BANK_SIZE: capacity of the fixed ROM bank and of every switchable ROM page, and the loader's page size (R7, D1). -/
def Config.romBankSize : Nat := 0x4000

/-- VRAM_SIZE (R7, D2). -/
def Config.vramSize : Nat := 0x2000

/-- ERAM_SIZE (R7, D2). -/
def Config.eramSize : Nat := 0x2000

/-- WRAM_BANK_SIZE: capacity of the fixed work-RAM bank and of every switchable work-RAM page (R7, D2). -/
def Config.wramBankSize : Nat := 0x1000

/-- ACTIVE_PAGE: the page index of every access the core itself makes (R7, R55). -/
def Config.activePage : Nat := 0

/-- How many switchable work-RAM pages there are beyond the first. The spec leaves the count OPEN (R8, D4); it has no
body, so nothing proved depends on a value of it (DESIGN CHOICE, safe: log entry 1). -/
opaque Config.extraWramPages : Nat

/-- WRAM_PAGES, a natural number of at least 1 (R8, D4; log entry 1). -/
def Config.wramPages : Nat := Config.extraWramPages + 1

end Sys2Proof
end

