-- ==== Sys2Proof/Machine/State.lean ====
section
/-! DEFINITION. The state of the machine (10_state.md), as plain data: ten registers, six storage elements, the status
latch; the five fault kinds (60_exceptions.md R99); and the state after reset (R36). -/

namespace Sys2Proof.Machine

/-- The six regions of the address map (20_memory.md R42). -/
inductive Region where
  | rom0 | romx | vram | eram | wram0 | wramx
  deriving DecidableEq, Repr

/-- Which Bank an OutOfBounds fault names: its region, and its page index when the region is paged (R99). -/
structure BankId where
  region : Region
  page : Option Nat
  deriving DecidableEq, Repr

/-- The five kinds of fault, each with the information R99 records. The first three are raised by the memory port and by
the core's own accesses, the last two by the dispatcher. A fault raised inside a step is latched in the state's `status`,
as the spec describes (R110), so step answers a next state that holds it; a fault of a host access is the access's result
(R113). All five are exact: the spec says when each is raised and what it leaves (R112). -/
inductive Fault where
  /-- Raised by `Bank.read` and `Bank.write` at an offset at or above the capacity (R37, R38, R100). Safe: the source calls
  the one case that reaches it, a straddling word, undefined (U1, D5). -/
  | outOfBounds (bank : BankId) (off : Nat)
  /-- Raised by `PagedBank.page` and `page_mut` at an index at or above the page count (R40, R41, R101). Safe: a stop. -/
  | pageOutOfRange (region : Region) (index : Nat)
  /-- Raised by the address decoder for 0xE000 to 0xFFFF (R43, R102). Safe: a stop. -/
  | addressOutOfRange (addr : Word)
  /-- Raised by the dispatcher for an undefined opcode not classified illegal (R76, R86, R103). Safe: a stop. -/
  | unimplementedOpcode (op : Byte) (addr : Word)
  /-- Raised by the dispatcher for one of the eleven opcodes classified illegal (R76, R86, R103). Safe: a stop; which of the
  two kinds is recorded rests on general knowledge (log entry 4). -/
  | illegalOpcode (op : Byte) (addr : Word)
  deriving DecidableEq, Repr

/-- Why a step could answer nothing. -/
inductive Refusal where
  /-- Raised by exec's arm of an instruction that has no meaning yet, and by nothing else; safe. No arm raises it now. -/
  | notModelled (mnemonic : String)
  deriving DecidableEq, Repr

/-- The status latch (R32). -/
inductive Status where
  | running
  | faulted (fault : Fault)
  deriving DecidableEq, Repr

/-- The bytes of a Bank that differ from 0x00, as (offset, byte) pairs in strictly rising order of offset
(`Memory.wf`). DESIGN CHOICE of the representation, safe (log entry 5). -/
abbrev Memory := List Host.Cell

/-- A Bank: a constant capacity and that many bytes (R28). -/
structure Bank where
  capacity : Nat
  cells : Memory
  deriving DecidableEq, Repr

/-- A PagedBank: an ordered sequence of Banks selected by an index counted from 0 (R29). -/
structure PagedBank where
  pages : List Bank
  deriving DecidableEq, Repr

/-- A zero-filled Bank (R39, R119). -/
def Bank.new (capacity : Nat) : Bank := { capacity := capacity, cells := [] }

/-- A PagedBank of `count` zero-filled pages (R29, R119). -/
def PagedBank.new (count capacity : Nat) : PagedBank := { pages := List.replicate count (Bank.new capacity) }

/-- The complete state of one machine instance (10_state.md, the tuple `State`). -/
structure State where
  a : Byte
  f : Byte
  b : Byte
  c : Byte
  d : Byte
  e : Byte
  h : Byte
  l : Byte
  sp : Word
  pc : Word
  rom0 : Bank
  romx : PagedBank
  vram : Bank
  eram : Bank
  wram0 : Bank
  wramx : PagedBank
  status : Status
  deriving DecidableEq, Repr

/-- The machine right after `reset(image)` with the empty image (R36, R119; L = 0 is legal, D21, and gives ROM_PAGES = 1,
R59). An image is handed over from outside: `State.resetImage` takes any (DESIGN CHOICE, unsafe: log entry 2). -/
def State.reset : State where
  a := 0x00#8
  f := 0x00#8
  b := 0x00#8
  c := 0x00#8
  d := 0x00#8
  e := 0x00#8
  h := 0x00#8
  l := 0x00#8
  sp := 0x0000#16
  pc := 0x0000#16
  rom0 := Bank.new Config.romBankSize
  romx := PagedBank.new 1 Config.romBankSize
  vram := Bank.new Config.vramSize
  eram := Bank.new Config.eramSize
  wram0 := Bank.new Config.wramBankSize
  wramx := PagedBank.new Config.wramPages Config.wramBankSize
  status := .running

end Sys2Proof.Machine
end

