-- ==== Sys2Proof/Machine/Ops.lean ====
section
/-! DEFINITION. The named operations over registers and memory: register accessors and pairs, the Bank and PagedBank
contracts, address decoder, router, byte and word access paths, taking a fault, the cartridge loader and reset. -/

namespace Sys2Proof.Machine

/-! ### Registers (10_state.md) -/

/-- The names of the eight 8-bit registers (R15). -/
inductive Reg8 where
  | A | F | B | C | D | E | H | L
  deriving DecidableEq, Repr

/-- The four register pairs (R18). -/
inductive Pair where
  | AF | BC | DE | HL
  deriving DecidableEq, Repr

/-- `x[n]` (R17). -/
def State.getR (s : State) : Reg8 → Byte
  | .A => s.a
  | .F => s.f
  | .B => s.b
  | .C => s.c
  | .D => s.d
  | .E => s.e
  | .H => s.h
  | .L => s.l

/-- `x[n] <- v` (R17): all eight bits are stored, in F too (R26). -/
def State.setR (s : State) (n : Reg8) (v : Byte) : State :=
  match n with
  | .A => { s with a := v }
  | .F => { s with f := v }
  | .B => { s with b := v }
  | .C => { s with c := v }
  | .D => { s with d := v }
  | .E => { s with e := v }
  | .H => { s with h := v }
  | .L => { s with l := v }

/-- `hi(p)`, the first-named register of the pair (R18). -/
def Pair.hi : Pair → Reg8
  | .AF => .A
  | .BC => .B
  | .DE => .D
  | .HL => .H

/-- `lo(p)`, the second-named register of the pair (R18). -/
def Pair.lo : Pair → Reg8
  | .AF => .F
  | .BC => .C
  | .DE => .E
  | .HL => .L

/-- `xp[p]` (R19). -/
def State.getPair (s : State) (p : Pair) : Word := wordOf (s.getR p.hi) (s.getR p.lo)

/-- `xp[p] <- v` (R20). -/
def State.setPair (s : State) (p : Pair) (v : Word) : State := (s.setR p.hi (highByte v)).setR p.lo (lowByte v)

/-- `sp <- v` (R22). -/
def State.setSp (s : State) (v : Word) : State := { s with sp := v }

/-- `pc <- v` (R24): every 16-bit value is accepted. -/
def State.setPc (s : State) (v : Word) : State := { s with pc := v }

/-- `pc <- pc +_16 k` (R25, R83): addition modulo 2^16 (D12). -/
def State.advancePc (s : State) (k : Nat) : State := s.setPc (s.pc + BitVec.ofNat 16 k)

/-! ### The bytes of one Bank -/

/-- What a byte that nothing has written reads as: "all bytes start at zero" (20_memory.md R39). -/
def unlistedByte : Byte := 0x00#8

/-- The byte at offset `k`. -/
def Memory.read : Memory → Nat → Byte
  | [], _ => unlistedByte
  | (k', w) :: m, k => if k' = k then w else Memory.read m k

/-- The byte at offset `k` becomes `v`; writing the byte an unlisted offset reads as removes the entry. -/
def Memory.write : Memory → Nat → Byte → Memory
  | [], k, v => if v = unlistedByte then [] else [(k, v)]
  | (k', w) :: m, k, v =>
    if k < k' then (if v = unlistedByte then (k', w) :: m else (k, v) :: (k', w) :: m)
    else if k = k' then (if v = unlistedByte then m else (k, v) :: m)
    else (k', w) :: Memory.write m k v

/-- The canonical form: offsets strictly rising, no entry equal to what an unlisted offset reads as. -/
abbrev Memory.wf (m : Memory) : Prop :=
  m.Pairwise (fun x y => x.1 < y.1) ∧ ∀ x ∈ m, x.2 ≠ unlistedByte

/-! ### Bank and PagedBank (20_memory.md R37 to R41) -/

/-- `Bank.read(b, off)` (R37); `id` names the bank in the fault. -/
def Bank.read (id : BankId) (b : Bank) (off : Nat) : Except Fault Byte :=
  if b.capacity ≤ off then .error (.outOfBounds id off) else .ok (Memory.read b.cells off)

/-- `Bank.write(b, off, v)` (R38); `id` names the bank in the fault. -/
def Bank.write (id : BankId) (b : Bank) (off : Nat) (v : Byte) : Except Fault Bank :=
  if b.capacity ≤ off then .error (.outOfBounds id off)
  else .ok { b with cells := Memory.write b.cells off v }

/-- The page count `N` of a PagedBank (R29). -/
def PagedBank.count (pb : PagedBank) : Nat := pb.pages.length

/-- `PagedBank.page(pb, index)` (R40), the selection of `page_mut` too (R41); `r` names the paged region in the fault. -/
def PagedBank.page (r : Region) (pb : PagedBank) (index : Nat) : Except Fault Bank :=
  match pb.pages[index]? with
  | none => .error (.pageOutOfRange r index)
  | some b => .ok b

/-- The PagedBank with page `index` replaced, what a write through `page_mut` leaves (R41). -/
def PagedBank.setPage (pb : PagedBank) (index : Nat) (b : Bank) : PagedBank := { pages := pb.pages.set index b }

/-! ### Address decoder and bank router (20_memory.md R42 to R46) -/

/-- `region(addr)`, by the address decode table (R42, R43). -/
def regionOf (addr : Word) : Except Fault Region :=
  if addr.toNat < 0x4000 then .ok .rom0
  else if addr.toNat < 0x8000 then .ok .romx
  else if addr.toNat < 0xA000 then .ok .vram
  else if addr.toNat < 0xC000 then .ok .eram
  else if addr.toNat < 0xD000 then .ok .wram0
  else if addr.toNat < 0xE000 then .ok .wramx
  else .error (.addressOutOfRange addr)

/-- The base of a region's window (R42). -/
def Region.base : Region → Nat
  | .rom0 => 0x0000
  | .romx => 0x4000
  | .vram => 0x8000
  | .eram => 0xA000
  | .wram0 => 0xC000
  | .wramx => 0xD000

/-- The capacity of a region's Bank, or of each of its pages (00_scope.md R7). -/
def Region.capacity : Region → Nat
  | .rom0 => Config.romBankSize
  | .romx => Config.romBankSize
  | .vram => Config.vramSize
  | .eram => Config.eramSize
  | .wram0 => Config.wramBankSize
  | .wramx => Config.wramBankSize

/-- Whether the region is a PagedBank (R30, R42). -/
def Region.isPaged : Region → Bool
  | .rom0 => false
  | .romx => true
  | .vram => false
  | .eram => false
  | .wram0 => false
  | .wramx => true

/-- How an OutOfBounds fault names the bank an access chose (R99). -/
def Region.bankId (r : Region) (page : Nat) : BankId :=
  { region := r, page := if r.isPaged then some page else none }

/-- The Bank that a region and a page index select; the page is ignored by a single Bank (R45, R54). -/
def State.selectBank (s : State) (r : Region) (page : Nat) : Except Fault Bank :=
  match r with
  | .rom0 => .ok s.rom0
  | .romx => PagedBank.page .romx s.romx page
  | .vram => .ok s.vram
  | .eram => .ok s.eram
  | .wram0 => .ok s.wram0
  | .wramx => PagedBank.page .wramx s.wramx page

/-- The state with the Bank that a region and a page index select replaced by `b`. -/
def State.putBank (s : State) (r : Region) (page : Nat) (b : Bank) : State :=
  match r with
  | .rom0 => { s with rom0 := b }
  | .romx => { s with romx := s.romx.setPage page b }
  | .vram => { s with vram := b }
  | .eram => { s with eram := b }
  | .wram0 => { s with wram0 := b }
  | .wramx => { s with wramx := s.wramx.setPage page b }

/-- Where the router sends an access: the region and page, the Bank they select and the bank-local offset. -/
structure Target where
  region : Region
  page : Nat
  bank : Bank
  off : Nat
  deriving DecidableEq, Repr

/-- How a fault names the Bank of a target. -/
def Target.id (t : Target) : BankId := t.region.bankId t.page

/-- `resolve(addr, page)` (R45): first the address decode, then the page selection (R46); the offset is the address less
the region's base (R44). -/
def State.resolve (s : State) (addr : Word) (page : Nat) : Except Fault Target :=
  match regionOf addr with
  | .error f => .error f
  | .ok r =>
    match s.selectBank r page with
    | .error f => .error f
    | .ok b => .ok { region := r, page := page, bank := b, off := addr.toNat - r.base }

/-! ### Byte and word access paths (20_memory.md R47 to R55) -/

/-- `read8(addr, page)` (R47). It returns no state: a read changes nothing (R48). -/
def State.read8 (s : State) (addr : Word) (page : Nat) : Except Fault Byte :=
  match s.resolve addr page with
  | .error f => .error f
  | .ok t => t.bank.read t.id t.off

/-- `read16(addr, page)` (R49): the Bank is chosen from `addr` alone, the low byte is at `addr`; a word that straddles the
window's end is rejected by the Bank's own bound (R50). -/
def State.read16 (s : State) (addr : Word) (page : Nat) : Except Fault Word :=
  match s.resolve addr page with
  | .error f => .error f
  | .ok t =>
    match t.bank.read t.id t.off with
    | .error f => .error f
    | .ok lo =>
      match t.bank.read t.id (t.off + 1) with
      | .error f => .error f
      | .ok hi => .ok (wordOf hi lo)

/-- `write8(addr, page, value)` (R51), the same for every region, ROM included (R52). -/
def State.write8 (s : State) (addr : Word) (page : Nat) (v : Byte) : Except Fault State :=
  match s.resolve addr page with
  | .error f => .error f
  | .ok t =>
    match t.bank.write t.id t.off v with
    | .error f => .error f
    | .ok b => .ok (s.putBank t.region t.page b)

/-- `write16(addr, page, value)` (R53, the spec's own addition, D6): little-endian and all or nothing. -/
def State.write16 (s : State) (addr : Word) (page : Nat) (v : Word) : Except Fault State :=
  match s.resolve addr page with
  | .error f => .error f
  | .ok t =>
    if t.bank.capacity ≤ t.off + 1 then .error (.outOfBounds t.id (t.off + 1))
    else
      match t.bank.write t.id t.off (lowByte v) with
      | .error f => .error f
      | .ok b =>
        match b.write t.id (t.off + 1) (highByte v) with
        | .error f => .error f
        | .ok b' => .ok (s.putBank t.region t.page b')

/-- `MemRead(addr, 1)`: the core's byte read, page 0 (00_scope.md R13, R55). -/
def State.memRead8 (s : State) (addr : Word) : Except Fault Byte := s.read8 addr Config.activePage

/-- `MemRead(addr, 2)`: the core's word read, page 0 (00_scope.md R13, R55). -/
def State.memRead16 (s : State) (addr : Word) : Except Fault Word := s.read16 addr Config.activePage

/-- `MemWrite(addr, 1, v)` (00_scope.md R13); no instruction uses it (R56). -/
def State.memWrite8 (s : State) (addr : Word) (v : Byte) : Except Fault State := s.write8 addr Config.activePage v

/-- `MemWrite(addr, 2, v)` (00_scope.md R13); no instruction uses it (R56). -/
def State.memWrite16 (s : State) (addr : Word) (v : Word) : Except Fault State := s.write16 addr Config.activePage v

/-! ### Faults (60_exceptions.md) -/

/-- The numeric code of a fault kind (R99, the spec's own numbering). -/
def Fault.code : Fault → Nat
  | .outOfBounds _ _ => 1
  | .pageOutOfRange _ _ => 2
  | .addressOutOfRange _ => 3
  | .unimplementedOpcode _ _ => 4
  | .illegalOpcode _ _ => 5

/-- TAKING A FAULT, the one operation for all of them: `status <- Faulted(F, info)` and nothing else (R110). There is no
vector, no saved register and no handler (R109), and no return from it: only reset leaves Faulted (R114). -/
def State.takeFault (s : State) (f : Fault) : State := { s with status := .faulted f }

/-- The decode fault of an undefined opcode `op` fetched from `addr` (R76, R86, R103). -/
def decodeFault (op : Byte) (addr : Word) : Fault :=
  if isIllegalOpcode op then .illegalOpcode op addr else .unimplementedOpcode op addr

/-! ### The cartridge-image loader and reset (20_memory.md R58 to R62, 70_reset_and_hazards.md R119) -/

/-- `ROM_PAGES` of an image of length `len`: `max(1, floor(L / P))` (R59). -/
def romPages (len : Nat) : Nat := max 1 (len / Config.romBankSize)

/-- How many chunks an image of length `len` is cut into: `ceil(L / P)` (R58). -/
def chunkCount (len : Nat) : Nat := (len + (Config.romBankSize - 1)) / Config.romBankSize

/-- Chunk `k` of the image: `bytes[k*P .. min((k+1)*P, L) - 1]` (R58). -/
def chunk (image : List Byte) (k : Nat) : List Byte :=
  (image.drop (k * Config.romBankSize)).take Config.romBankSize

/-- Store bytes into a Bank at offsets from `i` on, one `Bank.write` each (R60, the inner loop). -/
def Bank.store (id : BankId) (b : Bank) (i : Nat) : List Byte → Except Fault Bank
  | [] => .ok b
  | v :: vs =>
    match b.write id i v with
    | .error f => .error f
    | .ok b' => Bank.store id b' (i + 1) vs

/-- Store chunk `k`: chunk 0 into `rom0`, chunk `k >= 1` into page `k - 1` of `romx` (R60, the outer loop's body). -/
def State.storeChunk (s : State) (image : List Byte) (k : Nat) : Except Fault State :=
  let r : Region := if k = 0 then .rom0 else .romx
  match s.selectBank r (k - 1) with
  | .error f => .error f
  | .ok b =>
    match b.store (r.bankId (k - 1)) 0 (chunk image k) with
    | .error f => .error f
    | .ok b' => .ok (s.putBank r (k - 1) b')

/-- Store the chunks of the given numbers, in order (R60, the outer loop). -/
def State.storeChunks (s : State) (image : List Byte) : List Nat → Except Fault State
  | [] => .ok s
  | k :: ks =>
    match s.storeChunk image k with
    | .error f => .error f
    | .ok s' => s'.storeChunks image ks

/-- `load_rom(bytes)` (R60): `romx` is re-created with `ROM_PAGES` zero pages (R59), then the chunks are stored. -/
def State.loadRom (s : State) (image : List Byte) : Except Fault State :=
  { s with romx := PagedBank.new (romPages image.length) Config.romBankSize }.storeChunks image
    (List.range (chunkCount image.length))

/-- `reset(image)` (R119): everything zero, the ROM regions take the image, the latch is Running. The loader never faults
(R61 (a)), so the error arm is never taken. -/
def State.resetImage (image : List Byte) : State :=
  match State.reset.loadRom image with
  | .ok s => s
  | .error _ => State.reset

end Sys2Proof.Machine
end

