-- ==== Sys2Proof/Machine/Flags.lean ====
section
/-! DEFINITION. The flag computations the spec gives: none. F is plain storage, no instruction reads it, and none writes it
(10_state.md R26); the one rule that speaks of flags for an instruction says F keeps its value (42_alu.md R93). -/

namespace Sys2Proof.Machine

/-- The register F after XOR A,A, from F before and the result: F unchanged, bit for bit (R93). -/
def flagsAfterXor (before : Byte) (_result : Byte) : Byte := before

end Sys2Proof.Machine
end

