-- ==== Sys2Proof/Machine/Alu.lean ====
section
/-! DEFINITION. The arithmetic and logic instruction (42_alu.md). -/

namespace Sys2Proof.Machine

/-- The state with the result of an exclusive or in A and F as R93 says. -/
def State.writeXor (s : State) (result : Byte) : State :=
  (s.setR .A result).setR .F (flagsAfterXor (s.getR .F) result)

/-- XOR A,A: `x[A] <- x[A] xor x[A]` (R92); F is not written (R93). -/
def execXorAA (s : State) : Host.Outcome State Fault Refusal := .next (s.writeXor (s.getR .A ^^^ s.getR .A))

end Sys2Proof.Machine
end

