-- ==== Sys2Proof/Machine/Operands.lean ====
section
/-! DEFINITION. The operand forms (43_load_immediate.md R98: the immediate mode is the only one) and fetching an
instruction: opcode, decode, operand (40_fetch_dispatch.md R82 to R85). -/

namespace Sys2Proof.Machine

/-- The 8-bit immediate, read at the current `pc`, page 0 (R70, R85). -/
def State.operand8 (s : State) : Except Fault Byte := s.memRead8 s.pc

/-- The 16-bit immediate, read little-endian at the current `pc`, page 0 (R71, R85). -/
def State.operand16 (s : State) : Except Fault Word := s.memRead16 s.pc

/-- The operand bytes that a format needs, read at the current `pc` (R85); the read does not move `pc`. -/
def State.fetchOperand (s : State) : Format → Except Fault Instr
  | .op i => .ok i
  | .opN8 f =>
    match s.operand8 with
    | .error e => .error e
    | .ok n => .ok (f n)
  | .opN16 f =>
    match s.operand16 with
    | .error e => .error e
    | .ok nn => .ok (f nn)

/-- Fetch one instruction: the opcode at `pc` (R82), the increment of `pc` (R83), the decode (R84), the operand (R85). The
answer is the instruction with the state its operation starts in (`pc` just past the opcode), or, where an access faults,
the state with that fault taken: `pc` unmoved for the opcode's own fetch, one on for an operand's (R111, R112). -/
def State.fetch (s : State) : Except State (Instr × State) :=
  match s.memRead8 s.pc with
  | .error f => .error (s.takeFault f)
  | .ok op =>
    match (s.advancePc 1).fetchOperand (decodeOpcode op) with
    | .error f => .error ((s.advancePc 1).takeFault f)
    | .ok i => .ok (i, s.advancePc 1)

/-- Place bytes at consecutive addresses from `addr` on, page 0, stopping at the first address that is not mapped. -/
def State.placeBytes (s : State) (addr : Word) : List Byte → State
  | [] => s
  | v :: vs =>
    match s.memWrite8 addr v with
    | .error _ => s
    | .ok s' => s'.placeBytes (addr + 1#16) vs

end Sys2Proof.Machine
end

