-- ==== Sys2Proof/Machine/Control.lean ====
section
/-! DEFINITION. The control instructions (41_control.md). Every meaning starts in the state the dispatch hands over: `pc` is
just past the opcode byte (R83). -/

namespace Sys2Proof.Machine

/-- NOP: no read, no write (R90). -/
def execNop (s : State) : Host.Outcome State Fault Refusal := .next s

/-- JUMP nn: `pc <- nn`, absolute and unchecked (R91). -/
def execJumpNn (nn : Word) (s : State) : Host.Outcome State Fault Refusal := .next (s.setPc nn)

end Sys2Proof.Machine
end

