-- ==== Sys2Proof/Machine/LoadImmediate.lean ====
section
/-! DEFINITION. The immediate loads (43_load_immediate.md). Each writes its register and moves `pc` past its operand. -/

namespace Sys2Proof.Machine

/-- LOAD HL,nn: `xp[HL] <- nn`, then `pc <- pc +_16 2` (R95). -/
def execLoadHLnn (nn : Word) (s : State) : Host.Outcome State Fault Refusal :=
  .next ((s.setPair .HL nn).advancePc 2)

/-- LOAD C,n: `x[C] <- n`, then `pc <- pc +_16 1` (R96). -/
def execLoadCn (n : Byte) (s : State) : Host.Outcome State Fault Refusal :=
  .next ((s.setR .C n).advancePc 1)

/-- LOAD B,n: `x[B] <- n`, then `pc <- pc +_16 1` (R97). -/
def execLoadBn (n : Byte) (s : State) : Host.Outcome State Fault Refusal :=
  .next ((s.setR .B n).advancePc 1)

end Sys2Proof.Machine
end

