-- ==== Sys2Proof/Machine/Undefined.lean ====
section
/-! DEFINITION. The undefined opcodes (30_encoding.md R75, 40_fetch_dispatch.md R86). -/

namespace Sys2Proof.Machine

/-- An undefined opcode takes its decode fault, recorded with the opcode's address `pc - 1` (R86, R103). -/
def execUndefined (op : Byte) (s : State) : Host.Outcome State Fault Refusal :=
  .next (s.takeFault (decodeFault op (s.pc - 1#16)))

end Sys2Proof.Machine
end

