-- ==== Sys2Proof/Machine/Dispatch.lean ====
section
/-! DEFINITION. The dispatch unit (40_fetch_dispatch.md R84): one arm for each constructor of Instr. The state it is given
is the one after the increment of `pc` (R83), and the instruction already holds its operand (DEDUCED from R81 and R85, safe:
log entry 9). -/

namespace Sys2Proof.Machine

def exec (i : Instr) (s : State) : Host.Outcome State Fault Refusal :=
  match i with
  | .nop => Sys2Proof.Machine.execNop s
  | .jumpNn nn => Sys2Proof.Machine.execJumpNn nn s
  | .xorAA => Sys2Proof.Machine.execXorAA s
  | .loadHLnn nn => Sys2Proof.Machine.execLoadHLnn nn s
  | .loadCn n => Sys2Proof.Machine.execLoadCn n s
  | .loadBn n => Sys2Proof.Machine.execLoadBn n s
  | .undefined op => Sys2Proof.Machine.execUndefined op s

end Sys2Proof.Machine
end

