-- ==== Sys2Proof/Machine/Step.lean ====
section
/-! DEFINITION. The step (40_fetch_dispatch.md R81), and placing an instruction where the next step fetches it. -/

namespace Sys2Proof.Machine

/-- `step()`: one whole instruction, or a fault taken (R81); on a faulted machine nothing happens (R89). The status that
the spec's step returns is the next state's `status`; a fault is a next state with the latch set (DEDUCED from R81 and R110,
safe: log entry 8). -/
def step (s : State) : Host.Outcome State Fault Refusal :=
  match s.status with
  | .faulted _ => .next s
  | .running =>
    match s.fetch with
    | .error s' => .next s'
    | .ok (i, s') => exec i s'

/-- `s` with the instruction of a table row's word stored at `pc`, page 0, and the machine Running, so that the next step
fetches and runs it; nothing can be stored at an unmapped `pc`, and there the bytes are left as they are (DESIGN
CHOICE, safe: log entry 3). -/
def State.withFetchWord (s : State) (nbits w : Nat) : State :=
  { s.placeBytes s.pc (tableBytes nbits w) with status := .running }

end Sys2Proof.Machine
end

