-- ==== Sys2Proof/Machine/Port.lean ====
section
/-! DEFINITION. What the host can do to the block between steps: the transactions of 00_scope.md R10 but `step`, as plain
data, and what each does to the state and answers. -/

namespace Sys2Proof.Machine

/-- A host transaction (R10). `load_rom` is not among them: it runs only inside reset (R62, D14; DEDUCED,
safe: log entry 7). -/
inductive Transaction where
  | getR (n : Reg8)
  | setR (n : Reg8) (v : Byte)
  | getPair (p : Pair)
  | setPair (p : Pair) (v : Word)
  | getSp
  | setSp (v : Word)
  | getPc
  | setPc (v : Word)
  | read8 (addr : Word) (page : Nat)
  | read16 (addr : Word) (page : Nat)
  | write8 (addr : Word) (page : Nat) (v : Byte)
  | write16 (addr : Word) (page : Nat) (v : Word)
  | getStatus
  | reset (image : List Byte)
  deriving DecidableEq, Repr

/-- The result of a host transaction. -/
inductive Response where
  | done
  | byte (v : Byte)
  | word (v : Word)
  | status (v : Status)
  /-- The access faulted: the fault is the transaction's result (R113). -/
  | fault (f : Fault)
  deriving DecidableEq, Repr

/-- A write's new state, or the old state with the fault as the answer (R113). -/
def State.commitWrite (s : State) : Except Fault State → State × Response
  | .ok s' => (s', .done)
  | .error f => (s, .fault f)

/-- One host transaction: the state after it and its result (R10, R11, R113). -/
def State.perform (s : State) : Transaction → State × Response
  | .getR n => (s, .byte (s.getR n))
  | .setR n v => (s.setR n v, .done)
  | .getPair p => (s, .word (s.getPair p))
  | .setPair p v => (s.setPair p v, .done)
  | .getSp => (s, .word s.sp)
  | .setSp v => (s.setSp v, .done)
  | .getPc => (s, .word s.pc)
  | .setPc v => (s.setPc v, .done)
  | .read8 addr page =>
    match s.read8 addr page with
    | .ok v => (s, .byte v)
    | .error f => (s, .fault f)
  | .read16 addr page =>
    match s.read16 addr page with
    | .ok v => (s, .word v)
    | .error f => (s, .fault f)
  | .write8 addr page v => s.commitWrite (s.write8 addr page v)
  | .write16 addr page v => s.commitWrite (s.write16 addr page v)
  | .getStatus => (s, .status s.status)
  | .reset image => (State.resetImage image, .done)

end Sys2Proof.Machine
end

