-- ==== Sys2Proof/Safety.lean ====
section
/-! DEFINITION. What claims speak of: the shape a state keeps, reachable states, which addresses end a window, code at an
address, and what two states have in common. -/

namespace Sys2Proof.Machine

/-- A Bank of the given capacity, in canonical form, with no byte listed outside it (10_state.md R28). -/
abbrev Bank.wf (capacity : Nat) (b : Bank) : Prop :=
  b.capacity = capacity ∧ Memory.wf b.cells ∧ ∀ x ∈ b.cells, x.1 < capacity

/-- A PagedBank of at least one page, every page a Bank of the given capacity (R29). -/
abbrev PagedBank.wf (capacity : Nat) (pb : PagedBank) : Prop :=
  0 < pb.count ∧ ∀ b ∈ pb.pages, Bank.wf capacity b

/-- The shape of the storage: the six elements of R30 with the capacities and page counts of R7 and R8, in canonical form. -/
structure State.Inv (s : State) : Prop where
  rom0 : Bank.wf Config.romBankSize s.rom0
  romx : PagedBank.wf Config.romBankSize s.romx
  vram : Bank.wf Config.vramSize s.vram
  eram : Bank.wf Config.eramSize s.eram
  wram0 : Bank.wf Config.wramBankSize s.wram0
  wramx : PagedBank.wf Config.wramBankSize s.wramx
  wramPages : s.wramx.count = Config.wramPages

/-- The states a machine instance can be in: after a reset, and on by steps and host transactions (R9, R119, R122). -/
inductive State.Reachable : State → Prop where
  | reset (image : List Byte) : State.Reachable (State.resetImage image)
  | step {s t : State} (hs : State.Reachable s) (ht : Machine.step s = .next t) : State.Reachable t
  | host {s : State} (hs : State.Reachable s) (t : Transaction) : State.Reachable (s.perform t).1

/-- The run has not gone wrong: the latch is Running (60_exceptions.md R114). -/
abbrev State.Safe (s : State) : Prop := s.status = .running

/-- The address is the last of its window (20_memory.md R50). -/
def isWindowEnd (addr : Word) : Bool :=
  [0x3FFF#16, 0x7FFF#16, 0x9FFF#16, 0xBFFF#16, 0xCFFF#16, 0xDFFF#16].contains addr

/-- The given bytes stand at consecutive addresses from `addr` on, as the core reads them one by one (page 0). -/
def State.CodeAt (s : State) (addr : Word) : List Byte → Prop
  | [] => True
  | v :: vs => s.memRead8 addr = .ok v ∧ s.CodeAt (addr + 1#16) vs

/-- The two states hold the same memory, all six elements of it. -/
def State.SameMemory (s t : State) : Prop :=
  t.rom0 = s.rom0 ∧ t.romx = s.romx ∧ t.vram = s.vram ∧ t.eram = s.eram ∧ t.wram0 = s.wram0 ∧ t.wramx = s.wramx

/-- The two states hold the same registers, all ten of them, and the same status. -/
def State.SameRegisters (s t : State) : Prop :=
  (∀ n, t.getR n = s.getR n) ∧ t.sp = s.sp ∧ t.pc = s.pc ∧ t.status = s.status

/-- The byte of storage that stands behind a mapped address at an existing page, window by window (20_memory.md R42,
R44). -/
def State.byteAt (s : State) (addr : Word) (page : Nat) : Byte :=
  let k := addr.toNat
  if k < 0x4000 then Memory.read s.rom0.cells k
  else if k < 0x8000 then Memory.read (s.romx.pages.getD page (Bank.new 0)).cells (k - 0x4000)
  else if k < 0xA000 then Memory.read s.vram.cells (k - 0x8000)
  else if k < 0xC000 then Memory.read s.eram.cells (k - 0xA000)
  else if k < 0xD000 then Memory.read s.wram0.cells (k - 0xC000)
  else Memory.read (s.wramx.pages.getD page (Bank.new 0)).cells (k - 0xD000)

/-- Two pairs of address and page name the same byte of storage: the addresses are equal, and in a paged region the pages
too (R51). -/
def sameByte (addr : Word) (page : Nat) (addr' : Word) (page' : Nat) : Prop :=
  addr = addr' ∧ ∀ r, regionOf addr = .ok r → r.isPaged = true → page = page'

/-- The 8-bit registers an instruction writes (10_state.md R16). -/
def destinations : Instr → List Reg8
  | .nop => []
  | .jumpNn _ => []
  | .xorAA => [.A]
  | .loadHLnn _ => [.H, .L]
  | .loadCn _ => [.C]
  | .loadBn _ => [.B]
  | .undefined _ => []

end Sys2Proof.Machine
end

