-- ==== Sys2Proof/Certificates/Slice0/Obligations.lean ====
section
/-! DEFINITION. The statements for the provers. Each docstring names the rule of spec/ it formalises; a docstring that names
a decision D<n> says that the clause is the spec's own choice where its source is silent (92_eei_decisions.md). -/

open Sys2Proof Sys2Proof.Machine

/-! ### Encoding (30_encoding.md) -/

/-- Decoding the bytes of a well-formed instruction gives it back, whatever follows them (formats R68, R70, R71, R72). -/
def Obligations.DecodeOfEncodeIsTheInstruction : Prop :=
  ∀ (i : Instr) (rest : List Byte), i.wellFormed = true → decode (encode i ++ rest) = .ok (i, rest)

/-- Every byte sequence that decodes is the encoding of the well-formed instruction it decodes to. -/
def Obligations.DecodedBytesAreTheEncoding : Prop :=
  ∀ (bs rest : List Byte) (i : Instr), decode bs = .ok (i, rest) → i.wellFormed = true ∧ bs = encode i ++ rest

/-- R72 and R74: the opcode byte alone decides the operation and how many bytes belong to it, for all 256 values. -/
def Obligations.OpcodeMapIsTotal : Prop :=
  ∀ op b1 b2 : Byte, decode [op, b1, b2] =
    if op = 0x00#8 then .ok (.nop, [b1, b2])
    else if op = 0xC3#8 then .ok (.jumpNn (b2 ++ b1), [])
    else if op = 0xAF#8 then .ok (.xorAA, [b1, b2])
    else if op = 0x21#8 then .ok (.loadHLnn (b2 ++ b1), [])
    else if op = 0x0E#8 then .ok (.loadCn b1, [b2])
    else if op = 0x06#8 then .ok (.loadBn b1, [b2])
    else .ok (.undefined op, [b1, b2])

/-- The source's worked encodings (R71) and the derived vectors I5, I6, X2 of 95_test_vectors.md. -/
def Obligations.WorkedEncodingsDecode : Prop :=
  decode [0xC3#8, 0x10#8, 0x00#8] = .ok (.jumpNn 0x0010#16, []) ∧
  decode [0x21#8, 0x34#8, 0x12#8] = .ok (.loadHLnn 0x1234#16, []) ∧
  decode [0x06#8, 0x80#8] = .ok (.loadBn 0x80#8, []) ∧
  decode [0x0E#8, 0x7F#8] = .ok (.loadCn 0x7F#8, []) ∧
  decode [0xAF#8] = .ok (.xorAA, []) ∧ decode [0x00#8] = .ok (.nop, []) ∧ decode [0x76#8] = .ok (.undefined 0x76#8, [])

/-! ### Register file (10_state.md) -/

/-- R15 and R17: the eight registers are independent; reading one changes nothing, writing one changes nothing else. -/
def Obligations.RegistersAreIndependent : Prop :=
  ∀ (s : State) (n : Reg8) (v : Byte),
    s.perform (.getR n) = (s, .byte (s.getR n)) ∧
    ∃ t, s.perform (.setR n v) = (t, .done) ∧ (∀ m, t.getR m = if m = n then v else s.getR m) ∧
      t.sp = s.sp ∧ t.pc = s.pc ∧ t.status = s.status ∧ s.SameMemory t

/-- R18, R19 and R20: a pair is two registers, the first-named one the high byte, for reading and for writing. -/
def Obligations.PairsAreTwoRegisters : Prop :=
  ∀ (s : State) (p : Pair) (v : Word), ∀ hi lo : Reg8,
    (p, hi, lo) ∈ [(Pair.AF, Reg8.A, Reg8.F), (.BC, .B, .C), (.DE, .D, .E), (.HL, .H, .L)] →
    (∃ w : Word, s.perform (.getPair p) = (s, .word w) ∧ w.toNat = (s.getR hi).toNat * 256 + (s.getR lo).toNat) ∧
    ∃ t, s.perform (.setPair p v) = (t, .done) ∧
      (t.getR hi).toNat = v.toNat / 256 ∧ (t.getR lo).toNat = v.toNat % 256 ∧
      (∀ m, m ≠ hi → m ≠ lo → t.getR m = s.getR m) ∧ t.sp = s.sp ∧ t.pc = s.pc ∧ t.status = s.status ∧ s.SameMemory t

/-- The laws of the pair view that R21 derives: what was written to a pair is read back, and so are two halves. -/
def Obligations.PairRoundTrip : Prop :=
  ∀ (s : State) (p : Pair) (v : Word) (x y : Byte),
    (s.setPair p v).getPair p = v ∧ ((s.setR p.hi x).setR p.lo y).getPair p = x ++ y

/-- R22: SP is read and written by the host alone; no instruction writes it, and what it holds changes nothing else. -/
def Obligations.StackPointerIsOnlyTheHosts : Prop :=
  ∀ (s : State) (v : Word),
    s.perform .getSp = (s, .word s.sp) ∧ s.perform (.setSp v) = ({ s with sp := v }, .done) ∧
    ∀ t, step s = .next t → t.sp = s.sp ∧ step { s with sp := v } = .next { t with sp := v }

/-- R24: PC is read and written whole, every value is accepted, and an unmapped one makes the next step fault. -/
def Obligations.ProgramCounterAccess : Prop :=
  ∀ (s : State) (v : Word),
    s.perform .getPc = (s, .word s.pc) ∧ s.perform (.setPc v) = ({ s with pc := v }, .done) ∧
    (s.status = .running → 0xE000 ≤ v.toNat →
      step { s with pc := v } = .next { s with pc := v, status := .faulted (.addressOutOfRange v) })

/-- F is inert in every step: never written, and what it holds changes nothing else (R26 and R93, the spec's decision
D16). -/
def Obligations.FlagRegisterIsInert : Prop :=
  ∀ s t : State, step s = .next t → t.f = s.f ∧ ∀ v : Byte, step { s with f := v } = .next { t with f := v }

/-- What no 8-bit register can do: the value one holds before a step changes nothing but that register after it, and not
even that for F, D and E, which no step writes (the table of R16, which the spec derives). -/
def Obligations.NoRegisterSteersAStep : Prop :=
  ∀ (s t : State) (n : Reg8) (v : Byte), step s = .next t →
    (∃ t', step (s.setR n v) = .next t' ∧ t'.setR n 0x00#8 = t.setR n 0x00#8) ∧
    (n ∈ [Reg8.F, .D, .E] → step (s.setR n v) = .next (t.setR n v))

/-! ### Banks, decoder, access paths (20_memory.md) -/

/-- R37, R38 and R39: a Bank access at or above the capacity fails and changes nothing; below it a read gives the byte, a
write changes that byte and no other, and a Bank never written reads 0x00. -/
def Obligations.BankAccessIsBounded : Prop :=
  ∀ (n : Nat) (b : Bank) (id : BankId) (off : Nat) (v : Byte), Bank.wf n b →
    (n ≤ off → b.read id off = .error (.outOfBounds id off) ∧ b.write id off v = .error (.outOfBounds id off)) ∧
    (off < n → b.read id off = .ok (Memory.read b.cells off) ∧
      (∃ b', b.write id off v = .ok b' ∧ b'.read id off = .ok v ∧ b'.capacity = b.capacity ∧
        ∀ off', off' ≠ off → b'.read id off' = b.read id off') ∧
      (Bank.new n).read id off = .ok 0x00#8)

/-- R40 and R41: a page index at or above the page count faults and is never clamped; below it that page and no other is
read and written. -/
def Obligations.PageIndexIsNeverClamped : Prop :=
  ∀ (r : Region) (pb : PagedBank) (i : Nat),
    (pb.count ≤ i → pb.page r i = .error (.pageOutOfRange r i)) ∧
    (i < pb.count → (∃ b, pb.pages[i]? = some b ∧ pb.page r i = .ok b) ∧
      ∀ b', (pb.setPage i b').page r i = .ok b' ∧ ∀ j, j ≠ i → (pb.setPage i b').page r j = pb.page r j)

/-- R42: the address decode table, row by row: range, size, kind and base; outside the six ranges there is no region. -/
def Obligations.AddressDecodeTable : Prop :=
  ∀ (addr : Word) (r : Region) (lo hi : Nat) (paged : Bool),
    (r, lo, hi, paged) ∈ [(Region.rom0, 0x0000, 0x3FFF, false), (.romx, 0x4000, 0x7FFF, true),
      (.vram, 0x8000, 0x9FFF, false), (.eram, 0xA000, 0xBFFF, false), (.wram0, 0xC000, 0xCFFF, false),
      (.wramx, 0xD000, 0xDFFF, true)] →
    (regionOf addr = .ok r ↔ lo ≤ addr.toNat ∧ addr.toNat ≤ hi) ∧
    (0xE000 ≤ addr.toNat → regionOf addr = .error (.addressOutOfRange addr)) ∧
    r.base = lo ∧ r.capacity = hi + 1 - lo ∧ r.isPaged = paged

/-- The decoder by address bits, as R43 derives it from the table. -/
def Obligations.RegionByAddressBits : Prop :=
  ∀ addr : Word,
    regionOf addr =
      (if addr.extractLsb 15 14 = 0b00#2 then .ok .rom0
      else if addr.extractLsb 15 14 = 0b01#2 then .ok .romx
      else if addr.extractLsb 15 13 = 0b100#3 then .ok .vram
      else if addr.extractLsb 15 13 = 0b101#3 then .ok .eram
      else if addr.extractLsb 15 12 = 0b1100#4 then .ok .wram0
      else if addr.extractLsb 15 12 = 0b1101#4 then .ok .wramx
      else .error (.addressOutOfRange addr))

/-- The order of the checks of one access (R46, the spec's decision D20): an unmapped address is reported whatever the
page, and a page out of range even where the word would straddle. -/
def Obligations.ChecksInDataPathOrder : Prop :=
  ∀ (s : State) (addr : Word) (page : Nat) (v : Byte) (w : Word) (f : Fault),
    ((0xE000 ≤ addr.toNat ∧ f = .addressOutOfRange addr) ∨
     (regionOf addr = .ok .romx ∧ s.romx.count ≤ page ∧ f = .pageOutOfRange .romx page) ∨
     (regionOf addr = .ok .wramx ∧ s.wramx.count ≤ page ∧ f = .pageOutOfRange .wramx page)) →
    s.read8 addr page = .error f ∧ s.read16 addr page = .error f ∧
    s.write8 addr page v = .error f ∧ s.write16 addr page w = .error f

/-- Every outcome of a byte read (R47): the two faults under exactly their conditions, else the byte behind the address. -/
def Obligations.ByteReadOutcomes : Prop :=
  ∀ (s : State) (addr : Word) (page : Nat), s.Inv →
    s.read8 addr page =
      if 0xE000 ≤ addr.toNat then .error (.addressOutOfRange addr)
      else if 0x4000 ≤ addr.toNat ∧ addr.toNat < 0x8000 ∧ s.romx.count ≤ page then .error (.pageOutOfRange .romx page)
      else if 0xD000 ≤ addr.toNat ∧ s.wramx.count ≤ page then .error (.pageOutOfRange .wramx page)
      else .ok (s.byteAt addr page)

/-- R48: no read changes any state, whether it succeeds or faults, and the host gets what the access path answers: the byte
or word, or the fault (the reads' part of R113, the spec's decision D11). -/
def Obligations.ReadsChangeNothing : Prop :=
  ∀ (s : State) (addr : Word) (page : Nat),
    (s.perform (.read8 addr page)).1 = s ∧ (s.perform (.read16 addr page)).1 = s ∧
    (∀ v, (s.perform (.read8 addr page)).2 = .byte v ↔ s.read8 addr page = .ok v) ∧
    (∀ v, (s.perform (.read16 addr page)).2 = .word v ↔ s.read16 addr page = .ok v) ∧
    (∀ f, (s.perform (.read8 addr page)).2 = .fault f ↔ s.read8 addr page = .error f) ∧
    (∀ f, (s.perform (.read16 addr page)).2 = .fault f ↔ s.read16 addr page = .error f)

/-- R49: a word read is the little-endian composition of the bytes at `addr` and `addr + 1`, both in the window of `addr`;
where the byte at `addr` cannot be read, the word cannot, for the same reason. -/
def Obligations.WordReadIsLittleEndian : Prop :=
  ∀ (s : State) (addr : Word) (page : Nat), s.Inv →
    (∀ lo hi : Byte, isWindowEnd addr = false →
      (s.read16 addr page = .ok (hi ++ lo) ↔ s.read8 addr page = .ok lo ∧ s.read8 (addr + 1#16) page = .ok hi)) ∧
    ∀ f, s.read8 addr page = .error f → s.read16 addr page = .error f

/-- A word that straddles a window's end is rejected, for reading and for writing, with the bank and its capacity (R50 and
R53, the spec's decisions D5 and D6). -/
def Obligations.StraddlingWordIsRejected : Prop :=
  ∀ (s : State) (addr : Word) (page : Nat) (r : Region) (b : Bank) (v : Word), s.Inv → isWindowEnd addr = true →
    regionOf addr = .ok r → s.selectBank r page = .ok b →
    s.read16 addr page = .error (.outOfBounds (r.bankId page) r.capacity) ∧
    s.write16 addr page v = .error (.outOfBounds (r.bankId page) r.capacity)

/-- A byte write faults as the read does, and else changes exactly the one byte of storage (R51). The host's transaction
leaves that state and is done, or changes nothing and answers the fault (R10, R113; the spec's decision D11). -/
def Obligations.ByteWriteChangesOneByte : Prop :=
  ∀ (s : State) (addr : Word) (page : Nat) (v : Byte), s.Inv →
    (∃ f, s.read8 addr page = .error f ∧ s.write8 addr page v = .error f ∧
      s.perform (.write8 addr page v) = (s, .fault f)) ∨
    ∃ s', s.write8 addr page v = .ok s' ∧ s.perform (.write8 addr page v) = (s', .done) ∧
      s'.read8 addr page = .ok v ∧ s.SameRegisters s' ∧
      ∀ addr' page', ¬ sameByte addr page addr' page' → s'.read8 addr' page' = s.read8 addr' page'

/-- Every mapped byte is writable, the ROM windows included, and the very next read or fetch sees it (R52, the spec's
decision D15, and R66); no page count and no other byte the core can see changes. -/
def Obligations.WriteIsSeenByTheNextFetch : Prop :=
  ∀ (s : State) (addr : Word) (v : Byte), s.Inv → addr.toNat < 0xE000 →
    ∃ s', s.write8 addr 0 v = .ok s' ∧ s'.memRead8 addr = .ok v ∧ s'.romx.count = s.romx.count ∧
      s'.wramx.count = s.wramx.count ∧ ∀ addr', addr' ≠ addr → s'.memRead8 addr' = s.memRead8 addr'

/-- A word write faults exactly where the word read does, and then changes nothing at all; else it puts the low byte first
and changes nothing else (R53, the spec's decision D6). The host's transaction leaves that state and is done, or answers the
fault (R10, R113; D11). -/
def Obligations.WordWriteIsAllOrNothing : Prop :=
  ∀ (s : State) (addr : Word) (page : Nat) (v : Word), s.Inv →
    (∃ f, s.read16 addr page = .error f ∧ s.write16 addr page v = .error f ∧
      s.perform (.write16 addr page v) = (s, .fault f)) ∨
    ∃ s', s.write16 addr page v = .ok s' ∧ s.perform (.write16 addr page v) = (s', .done) ∧
      isWindowEnd addr = false ∧ s'.read16 addr page = .ok v ∧
      s'.read8 addr page = .ok (v.extractLsb 7 0) ∧ s'.read8 (addr + 1#16) page = .ok (v.extractLsb 15 8) ∧
      s.SameRegisters s' ∧
      ∀ addr' page', ¬ sameByte addr page addr' page' → ¬ sameByte (addr + 1#16) page addr' page' →
        s'.read8 addr' page' = s.read8 addr' page'

/-- The page is ignored by single-Bank regions, however large it is (R54; its domain is the spec's decision D13). -/
def Obligations.PageIsIgnoredBySingleBanks : Prop :=
  ∀ (s : State) (addr : Word) (page : Nat) (r : Region) (v : Byte) (w : Word),
    regionOf addr = .ok r → r ∈ [Region.rom0, .vram, .eram, .wram0] →
    s.read8 addr page = s.read8 addr 0 ∧ s.read16 addr page = s.read16 addr 0 ∧
    s.write8 addr page v = s.write8 addr 0 v ∧ s.write16 addr page w = s.write16 addr 0 w

/-- Two canonical memories that read the same everywhere are the same data, so states compare as their contents do (the
model's representation of R28; log entry 5). -/
def Obligations.EqualContentsAreEqualData : Prop :=
  ∀ m m' : Memory, Memory.wf m → Memory.wf m' → (∀ k, Memory.read m k = Memory.read m' k) → m = m'

/-! ### Loader and reset (20_memory.md section 7, 70_reset_and_hazards.md) -/

/-- The loader never faults, makes exactly the page count the image implies, and touches the ROM regions only (R59, R61
(a), R62; the rounding is the spec's decision D24, and the canonical form in Inv is the model's choice, log entry 5). -/
def Obligations.LoaderNeverFaults : Prop :=
  ∀ (s : State) (image : List Byte), s.Inv →
    ∃ s', s.loadRom image = .ok s' ∧ s'.Inv ∧ s'.romx.count = max 1 (image.length / 0x4000) ∧ s.SameRegisters s' ∧
      s'.vram = s.vram ∧ s'.eram = s.eram ∧ s'.wram0 = s.wram0 ∧ s'.wramx = s.wramx

/-- Where the image's bytes are after reset: R61 (b) and (c), which the spec derives from R58 to R60. -/
def Obligations.ResetPlacesTheImage : Prop :=
  ∀ (image : List Byte) (addr : Word) (page : Nat),
    (addr.toNat < 0x4000 → (State.resetImage image).read8 addr page = .ok (image.getD addr.toNat 0x00#8)) ∧
    (0x4000 ≤ addr.toNat → addr.toNat < 0x8000 → page < max 1 (image.length / 0x4000) →
      (State.resetImage image).read8 addr page =
        .ok (image.getD ((page + 1) * 0x4000 + (addr.toNat - 0x4000)) 0x00#8))

/-- The rest of R36's table after a reset with any image: registers, SP, PC and all RAM zero, the latch Running (the latch
is the spec's decision D7), the page counts those of R59 and R8. -/
def Obligations.ResetClearsTheRest : Prop :=
  ∀ image : List Byte,
    (∀ n, (State.resetImage image).getR n = 0x00#8) ∧ (State.resetImage image).sp = 0x0000#16 ∧
    (State.resetImage image).pc = 0x0000#16 ∧ (State.resetImage image).status = .running ∧
    (State.resetImage image).romx.count = max 1 (image.length / 0x4000) ∧
    (State.resetImage image).wramx.count = Config.wramPages ∧
    (∀ (addr : Word) (page : Nat), 0x8000 ≤ addr.toNat → addr.toNat < 0xE000 → page < Config.wramPages →
      (State.resetImage image).read8 addr page = .ok 0x00#8)

/-- The host's reset state is the reset with the empty image (the image is the model's choice, log entry 2). -/
def Obligations.ResetStateIsTheEmptyImages : Prop :=
  State.resetImage [] = State.reset

/-- The invariant holds after every reset (R30, R36; the canonical form in it is the model's choice, log entry 5). -/
def Obligations.ResetMeetsTheInvariant : Prop :=
  State.reset.Inv ∧ ∀ image : List Byte, (State.resetImage image).Inv

/-! ### The step (40_fetch_dispatch.md) -/

/-- R81: when the code bytes at `pc` decode to an instruction, the step runs exec of it from `pc` one on; both operand bytes
of a three-byte instruction lie in one window. -/
def Obligations.StepRunsTheDecodedInstruction : Prop :=
  ∀ (s : State) (i : Instr) (code : List Byte), s.status = .running → decode code = .ok (i, []) → s.CodeAt s.pc code →
    (instrLength i = 3 → isWindowEnd (s.pc + 1#16) = false) →
    step s = exec i { s with pc := s.pc + 1#16 }

/-- R82: the opcode fetch faults exactly at an unmapped `pc`, and then only the status changes. -/
def Obligations.OpcodeFetch : Prop :=
  ∀ s : State, s.Inv → s.status = .running →
    (0xE000 ≤ s.pc.toNat → step s = .next { s with status := .faulted (.addressOutOfRange s.pc) }) ∧
    (s.pc.toNat < 0xE000 → ∃ op, s.memRead8 s.pc = .ok op)

/-- An undefined opcode latches its decode fault with `pc` one on, whatever follows it (R75, R86; the spec's decisions D8
and D9, and the eleven illegal values are general knowledge: log entry 4). -/
def Obligations.UndefinedOpcodeStep : Prop :=
  ∀ (s : State) (op : Byte), s.status = .running → s.memRead8 s.pc = .ok op →
    op ∉ [0x00#8, 0x06#8, 0x0E#8, 0x21#8, 0xAF#8, 0xC3#8] →
    step s = .next { s with
      pc := s.pc + 1#16
      status := .faulted
        (if op ∈ [0xD3#8, 0xDB#8, 0xDD#8, 0xE3#8, 0xE4#8, 0xEB#8, 0xEC#8, 0xED#8, 0xF4#8, 0xFC#8, 0xFD#8]
         then .illegalOpcode op s.pc else .unimplementedOpcode op s.pc) }

/-- R90: NOP. -/
def Obligations.NopStep : Prop :=
  encode .nop = [0x00#8] ∧
  ∀ s : State, s.status = .running →
    (0xE000 ≤ s.pc.toNat → step s = .next { s with status := .faulted (.addressOutOfRange s.pc) }) ∧
    (s.memRead8 s.pc = .ok 0x00#8 → step s = .next { s with pc := s.pc + 1#16 })

/-- R91: JUMP nn, with the faults of its operand read (the straddle is R50's, D5). -/
def Obligations.JumpStep : Prop :=
  (∀ lo hi : Byte, encode (.jumpNn (hi ++ lo)) = [0xC3#8, lo, hi]) ∧
  ∀ s : State, s.Inv → s.status = .running →
    (0xE000 ≤ s.pc.toNat → step s = .next { s with status := .faulted (.addressOutOfRange s.pc) }) ∧
    (s.memRead8 s.pc = .ok 0xC3#8 →
      (∀ lo hi, isWindowEnd (s.pc + 1#16) = false → s.memRead8 (s.pc + 1#16) = .ok lo →
        s.memRead8 (s.pc + 2#16) = .ok hi → step s = .next { s with pc := hi ++ lo }) ∧
      (s.pc = 0xDFFF#16 →
        step s = .next { s with pc := 0xE000#16, status := .faulted (.addressOutOfRange 0xE000#16) }) ∧
      (∀ r, isWindowEnd (s.pc + 1#16) = true → regionOf (s.pc + 1#16) = .ok r →
        step s = .next { s with pc := s.pc + 1#16, status := .faulted (.outOfBounds (r.bankId 0) r.capacity) }))

/-- R92: XOR A,A. -/
def Obligations.XorStep : Prop :=
  encode .xorAA = [0xAF#8] ∧
  ∀ s : State, s.status = .running →
    (0xE000 ≤ s.pc.toNat → step s = .next { s with status := .faulted (.addressOutOfRange s.pc) }) ∧
    (s.memRead8 s.pc = .ok 0xAF#8 → step s = .next { s with a := 0x00#8, pc := s.pc + 1#16 })

/-- R95: LOAD HL,nn, with the faults of its operand read (the straddle is R50's, D5). -/
def Obligations.LoadHLStep : Prop :=
  (∀ lo hi : Byte, encode (.loadHLnn (hi ++ lo)) = [0x21#8, lo, hi]) ∧
  ∀ s : State, s.Inv → s.status = .running →
    (0xE000 ≤ s.pc.toNat → step s = .next { s with status := .faulted (.addressOutOfRange s.pc) }) ∧
    (s.memRead8 s.pc = .ok 0x21#8 →
      (∀ lo hi, isWindowEnd (s.pc + 1#16) = false → s.memRead8 (s.pc + 1#16) = .ok lo →
        s.memRead8 (s.pc + 2#16) = .ok hi → step s = .next { s with h := hi, l := lo, pc := s.pc + 3#16 }) ∧
      (s.pc = 0xDFFF#16 →
        step s = .next { s with pc := 0xE000#16, status := .faulted (.addressOutOfRange 0xE000#16) }) ∧
      (∀ r, isWindowEnd (s.pc + 1#16) = true → regionOf (s.pc + 1#16) = .ok r →
        step s = .next { s with pc := s.pc + 1#16, status := .faulted (.outOfBounds (r.bankId 0) r.capacity) }))

/-- R96: LOAD C,n. -/
def Obligations.LoadCStep : Prop :=
  (∀ n : Byte, encode (.loadCn n) = [0x0E#8, n]) ∧
  ∀ s : State, s.status = .running →
    (0xE000 ≤ s.pc.toNat → step s = .next { s with status := .faulted (.addressOutOfRange s.pc) }) ∧
    (s.memRead8 s.pc = .ok 0x0E#8 →
      (∀ n, s.memRead8 (s.pc + 1#16) = .ok n → step s = .next { s with c := n, pc := s.pc + 2#16 }) ∧
      (s.pc = 0xDFFF#16 →
        step s = .next { s with pc := 0xE000#16, status := .faulted (.addressOutOfRange 0xE000#16) }))

/-- R97: LOAD B,n. -/
def Obligations.LoadBStep : Prop :=
  (∀ n : Byte, encode (.loadBn n) = [0x06#8, n]) ∧
  ∀ s : State, s.status = .running →
    (0xE000 ≤ s.pc.toNat → step s = .next { s with status := .faulted (.addressOutOfRange s.pc) }) ∧
    (s.memRead8 s.pc = .ok 0x06#8 →
      (∀ n, s.memRead8 (s.pc + 1#16) = .ok n → step s = .next { s with b := n, pc := s.pc + 2#16 }) ∧
      (s.pc = 0xDFFF#16 →
        step s = .next { s with pc := 0xE000#16, status := .faulted (.addressOutOfRange 0xE000#16) }))

/-- Every instruction's own operation completes, in every state (the pseudocode bodies of R90 to R92, R95 to R97 and the
`else` of R81; `pc` is just past the opcode on entry). -/
def Obligations.EveryInstructionCompletes : Prop :=
  ∀ (s : State) (n : Byte) (nn : Word),
    exec .nop s = .next s ∧ exec (.jumpNn nn) s = .next { s with pc := nn } ∧
    exec .xorAA s = .next { s with a := 0x00#8 } ∧
    exec (.loadHLnn nn) s =
      .next { s with h := nn.extractLsb 15 8, l := nn.extractLsb 7 0, pc := s.pc + 2#16 } ∧
    exec (.loadCn n) s = .next { s with c := n, pc := s.pc + 1#16 } ∧
    exec (.loadBn n) s = .next { s with b := n, pc := s.pc + 1#16 } ∧
    exec (.undefined n) s = .next { s with status := .faulted (decodeFault n (s.pc - 1#16)) }

/-- The frame of every instruction: registers but its destinations, SP, every bank and every byte of memory unchanged; the
status too, but for UNDEFINED, whose decode fault is latched. -/
def Obligations.InstructionFrame : Prop :=
  ∀ (i : Instr) (s t : State), exec i s = .next t →
    (∀ n, n ∉ destinations i → t.getR n = s.getR n) ∧ t.sp = s.sp ∧ s.SameMemory t ∧
    (∀ addr page, t.read8 addr page = s.read8 addr page) ∧
    ((∀ op, i ≠ .undefined op) → t.status = s.status) ∧
    (∀ op, i = .undefined op → t.pc = s.pc ∧ t.status = .faulted (decodeFault op (s.pc - 1#16)))

/-- No step writes memory, SP, F, D or E, whether it completes or faults (R56 and R16, which the spec derives). -/
def Obligations.NoStepWritesMemory : Prop :=
  ∀ s t : State, step s = .next t →
    s.SameMemory t ∧ (∀ addr page, t.read8 addr page = s.read8 addr page) ∧
    t.sp = s.sp ∧ t.f = s.f ∧ t.d = s.d ∧ t.e = s.e

/-- The program sees page 0 only: a step takes no notice of any other page of either paged region, and leaves it as it is
(R55 and R128). -/
def Obligations.OtherPagesAreInvisible : Prop :=
  ∀ (s t : State) (r : Region) (page : Nat) (b : Bank), r.isPaged = true → page ≠ 0 → step s = .next t →
    step (s.putBank r page b) = .next (t.putBank r page b)

/-! ### Faults (60_exceptions.md) -/

/-- Which step faults, and with what: R106's table as one equation for the status after a step of a running machine (the
spec derives the table; the kinds of the decode fault are log entry 4). -/
def Obligations.FaultsOfAStep : Prop :=
  ∀ s t : State, s.Inv → s.status = .running → step s = .next t →
    (0xE000 ≤ s.pc.toNat ∧ t.status = .faulted (.addressOutOfRange s.pc)) ∨
    ∃ op, s.memRead8 s.pc = .ok op ∧
      t.status =
        if op ∉ definedOpcodes then .faulted (decodeFault op s.pc)
        else if op ∈ [0x06#8, 0x0E#8, 0xC3#8, 0x21#8] ∧ s.pc = 0xDFFF#16 then .faulted (.addressOutOfRange 0xE000#16)
        else if op ∈ [0xC3#8, 0x21#8] ∧ isWindowEnd (s.pc + 1#16) = true then
          match regionOf (s.pc + 1#16) with
          | .ok r => .faulted (.outOfBounds (r.bankId 0) r.capacity)
          | .error _ => .running
        else .running

/-- Faults are precise (R111 and R112, the spec's decision D8): a step that faults changes the status, and `pc` by one
unless the opcode's own fetch failed, and nothing else. -/
def Obligations.FaultingStepIsPrecise : Prop :=
  ∀ (s t : State) (f : Fault), s.status = .running → step s = .next t → t.status = .faulted f →
    (t = { s with status := .faulted f } ∧ s.memRead8 s.pc = .error f) ∨
    (t = { s with pc := s.pc + 1#16, status := .faulted f } ∧ ∃ op, s.memRead8 s.pc = .ok op)

/-- No access of the core's ever raises PageOutOfRange (R55 and R101, which the spec derives). -/
def Obligations.NoPageFaultInAStep : Prop :=
  ∀ (s t : State), s.Inv → s.status = .running → step s = .next t →
    ∀ r i, t.status ≠ .faulted (.pageOutOfRange r i)

/-- A faulted machine stays as it is, for any number of steps (R89 and R114, the spec's decision D10). -/
def Obligations.FaultedMachineDoesNothing : Prop :=
  ∀ (s : State) (f : Fault) (k : Nat), s.status = .faulted f → core.run k s = .next s

/-- No host transaction but reset changes the status, a host transaction that faults changes nothing at all, and reset with
an image leaves exactly the machine of R119, which is Running (R113, R114, R121); get_status answers the latch and changes
nothing (R33); a step never leaves Faulted (R89, R114). These follow the spec's decisions D7, D10 and D11. -/
def Obligations.OnlyResetLeavesFaulted : Prop :=
  ∀ (s : State) (tr : Transaction),
    ((∀ image, tr ≠ .reset image) → (s.perform tr).1.status = s.status) ∧
    (∀ f, (s.perform tr).2 = .fault f → (s.perform tr).1 = s) ∧
    (∀ image, tr = .reset image →
      s.perform tr = (State.resetImage image, .done) ∧ (s.perform tr).1.status = .running) ∧
    s.perform .getStatus = (s, .status s.status) ∧
    (∀ f t, s.status = .faulted f → step s = .next t → t.status = .faulted f)

/-! ### Invariants and whole-machine rules -/

/-- Every step keeps the shape and canonical form of the storage and both page counts (R29, R30; the canonical form is the
model's choice, log entry 5). -/
def Obligations.StepKeepsTheInvariant : Prop :=
  ∀ s t : State, s.Inv → step s = .next t → t.Inv ∧ t.romx.count = s.romx.count ∧ t.wramx.count = s.wramx.count

/-- Every host transaction keeps the shape and canonical form of the storage; all but reset keep the page count of the
ROM (R29, R30; the canonical form is the model's choice, log entry 5). -/
def Obligations.HostKeepsTheInvariant : Prop :=
  ∀ (s : State) (tr : Transaction), s.Inv →
    (s.perform tr).1.Inv ∧ ((∀ image, tr ≠ .reset image) → (s.perform tr).1.romx.count = s.romx.count)

/-- Every state a machine instance can be in has the storage R30 gives it, and every mapped address can be fetched from
(the canonical form in Inv is the model's choice, log entry 5). -/
def Obligations.ReachableStatesAreWellShaped : Prop :=
  ∀ s : State, s.Reachable → s.Inv ∧ ∀ addr : Word, addr.toNat < 0xE000 → ∃ v, s.memRead8 addr = .ok v

/-- A step always ends, in a next state (R132). -/
def Obligations.StepAlwaysAnswers : Prop :=
  ∀ s : State, ∃ t, step s = .next t

/-- `pc` never wraps in a step that does not fault: it moves on by 1, 2 or 3 to at most 0xE000, or JUMP overwrites it (R87,
which the spec derives). -/
def Obligations.ProgramCounterNeverWraps : Prop :=
  ∀ (s t : State) (op : Byte), s.Inv → step s = .next t → t.status = .running → s.memRead8 s.pc = .ok op →
    op ≠ 0xC3#8 →
    t.pc.toNat = s.pc.toNat + (if op = 0x21#8 then 3 else if op = 0x06#8 ∨ op = 0x0E#8 then 2 else 1) ∧
      t.pc.toNat ≤ 0xE000

/-- Zero bytes are NOPs: over `k` of them `k` steps move `pc` on by `k` and change nothing else (R127). -/
def Obligations.ZeroBytesRunAsNops : Prop :=
  ∀ (k : Nat) (s : State), s.status = .running → s.CodeAt s.pc (List.replicate k 0x00#8) →
    core.run k s = .next { s with pc := s.pc + BitVec.ofNat 16 k }

/-- A jump to itself idles: no number of steps changes the state (the corner case of R91 that R88 rests on). -/
def Obligations.SelfJumpIdles : Prop :=
  ∀ (k : Nat) (s : State) (lo hi : Byte), s.status = .running → isWindowEnd (s.pc + 1#16) = false →
    s.CodeAt s.pc [0xC3#8, lo, hi] → hi ++ lo = s.pc → core.run k s = .next s
end

