-- ==== Sys2Proof/Laws/State.lean ====
section
/-! SUPPORT. What each update of the state does to each field, by rfl, so that no proof unfolds a record update. -/

namespace Sys2Proof.Machine

variable (s : State)

/-! ### One register -/

@[simp] theorem State.getR_A : s.getR .A = s.a := rfl
@[simp] theorem State.getR_F : s.getR .F = s.f := rfl
@[simp] theorem State.getR_B : s.getR .B = s.b := rfl
@[simp] theorem State.getR_C : s.getR .C = s.c := rfl
@[simp] theorem State.getR_D : s.getR .D = s.d := rfl
@[simp] theorem State.getR_E : s.getR .E = s.e := rfl
@[simp] theorem State.getR_H : s.getR .H = s.h := rfl
@[simp] theorem State.getR_L : s.getR .L = s.l := rfl

@[simp] theorem State.setR_A_a (v : Byte) : (s.setR .A v).a = v := rfl
@[simp] theorem State.setR_A_f (v : Byte) : (s.setR .A v).f = s.f := rfl
@[simp] theorem State.setR_A_b (v : Byte) : (s.setR .A v).b = s.b := rfl
@[simp] theorem State.setR_A_c (v : Byte) : (s.setR .A v).c = s.c := rfl
@[simp] theorem State.setR_A_d (v : Byte) : (s.setR .A v).d = s.d := rfl
@[simp] theorem State.setR_A_e (v : Byte) : (s.setR .A v).e = s.e := rfl
@[simp] theorem State.setR_A_h (v : Byte) : (s.setR .A v).h = s.h := rfl
@[simp] theorem State.setR_A_l (v : Byte) : (s.setR .A v).l = s.l := rfl
@[simp] theorem State.setR_F_f (v : Byte) : (s.setR .F v).f = v := rfl
@[simp] theorem State.setR_F_a (v : Byte) : (s.setR .F v).a = s.a := rfl
@[simp] theorem State.setR_F_b (v : Byte) : (s.setR .F v).b = s.b := rfl
@[simp] theorem State.setR_F_c (v : Byte) : (s.setR .F v).c = s.c := rfl
@[simp] theorem State.setR_F_d (v : Byte) : (s.setR .F v).d = s.d := rfl
@[simp] theorem State.setR_F_e (v : Byte) : (s.setR .F v).e = s.e := rfl
@[simp] theorem State.setR_F_h (v : Byte) : (s.setR .F v).h = s.h := rfl
@[simp] theorem State.setR_F_l (v : Byte) : (s.setR .F v).l = s.l := rfl
@[simp] theorem State.setR_B_b (v : Byte) : (s.setR .B v).b = v := rfl
@[simp] theorem State.setR_B_a (v : Byte) : (s.setR .B v).a = s.a := rfl
@[simp] theorem State.setR_B_f (v : Byte) : (s.setR .B v).f = s.f := rfl
@[simp] theorem State.setR_B_c (v : Byte) : (s.setR .B v).c = s.c := rfl
@[simp] theorem State.setR_B_d (v : Byte) : (s.setR .B v).d = s.d := rfl
@[simp] theorem State.setR_B_e (v : Byte) : (s.setR .B v).e = s.e := rfl
@[simp] theorem State.setR_B_h (v : Byte) : (s.setR .B v).h = s.h := rfl
@[simp] theorem State.setR_B_l (v : Byte) : (s.setR .B v).l = s.l := rfl
@[simp] theorem State.setR_C_c (v : Byte) : (s.setR .C v).c = v := rfl
@[simp] theorem State.setR_C_a (v : Byte) : (s.setR .C v).a = s.a := rfl
@[simp] theorem State.setR_C_f (v : Byte) : (s.setR .C v).f = s.f := rfl
@[simp] theorem State.setR_C_b (v : Byte) : (s.setR .C v).b = s.b := rfl
@[simp] theorem State.setR_C_d (v : Byte) : (s.setR .C v).d = s.d := rfl
@[simp] theorem State.setR_C_e (v : Byte) : (s.setR .C v).e = s.e := rfl
@[simp] theorem State.setR_C_h (v : Byte) : (s.setR .C v).h = s.h := rfl
@[simp] theorem State.setR_C_l (v : Byte) : (s.setR .C v).l = s.l := rfl
@[simp] theorem State.setR_D_d (v : Byte) : (s.setR .D v).d = v := rfl
@[simp] theorem State.setR_D_a (v : Byte) : (s.setR .D v).a = s.a := rfl
@[simp] theorem State.setR_D_f (v : Byte) : (s.setR .D v).f = s.f := rfl
@[simp] theorem State.setR_D_b (v : Byte) : (s.setR .D v).b = s.b := rfl
@[simp] theorem State.setR_D_c (v : Byte) : (s.setR .D v).c = s.c := rfl
@[simp] theorem State.setR_D_e (v : Byte) : (s.setR .D v).e = s.e := rfl
@[simp] theorem State.setR_D_h (v : Byte) : (s.setR .D v).h = s.h := rfl
@[simp] theorem State.setR_D_l (v : Byte) : (s.setR .D v).l = s.l := rfl
@[simp] theorem State.setR_E_e (v : Byte) : (s.setR .E v).e = v := rfl
@[simp] theorem State.setR_E_a (v : Byte) : (s.setR .E v).a = s.a := rfl
@[simp] theorem State.setR_E_f (v : Byte) : (s.setR .E v).f = s.f := rfl
@[simp] theorem State.setR_E_b (v : Byte) : (s.setR .E v).b = s.b := rfl
@[simp] theorem State.setR_E_c (v : Byte) : (s.setR .E v).c = s.c := rfl
@[simp] theorem State.setR_E_d (v : Byte) : (s.setR .E v).d = s.d := rfl
@[simp] theorem State.setR_E_h (v : Byte) : (s.setR .E v).h = s.h := rfl
@[simp] theorem State.setR_E_l (v : Byte) : (s.setR .E v).l = s.l := rfl
@[simp] theorem State.setR_H_h (v : Byte) : (s.setR .H v).h = v := rfl
@[simp] theorem State.setR_H_a (v : Byte) : (s.setR .H v).a = s.a := rfl
@[simp] theorem State.setR_H_f (v : Byte) : (s.setR .H v).f = s.f := rfl
@[simp] theorem State.setR_H_b (v : Byte) : (s.setR .H v).b = s.b := rfl
@[simp] theorem State.setR_H_c (v : Byte) : (s.setR .H v).c = s.c := rfl
@[simp] theorem State.setR_H_d (v : Byte) : (s.setR .H v).d = s.d := rfl
@[simp] theorem State.setR_H_e (v : Byte) : (s.setR .H v).e = s.e := rfl
@[simp] theorem State.setR_H_l (v : Byte) : (s.setR .H v).l = s.l := rfl
@[simp] theorem State.setR_L_l (v : Byte) : (s.setR .L v).l = v := rfl
@[simp] theorem State.setR_L_a (v : Byte) : (s.setR .L v).a = s.a := rfl
@[simp] theorem State.setR_L_f (v : Byte) : (s.setR .L v).f = s.f := rfl
@[simp] theorem State.setR_L_b (v : Byte) : (s.setR .L v).b = s.b := rfl
@[simp] theorem State.setR_L_c (v : Byte) : (s.setR .L v).c = s.c := rfl
@[simp] theorem State.setR_L_d (v : Byte) : (s.setR .L v).d = s.d := rfl
@[simp] theorem State.setR_L_e (v : Byte) : (s.setR .L v).e = s.e := rfl
@[simp] theorem State.setR_L_h (v : Byte) : (s.setR .L v).h = s.h := rfl
@[simp] theorem State.setR_sp (n : Reg8) (v : Byte) : (s.setR n v).sp = s.sp := by cases n <;> rfl
@[simp] theorem State.setR_pc (n : Reg8) (v : Byte) : (s.setR n v).pc = s.pc := by cases n <;> rfl
@[simp] theorem State.setR_rom0 (n : Reg8) (v : Byte) : (s.setR n v).rom0 = s.rom0 := by cases n <;> rfl
@[simp] theorem State.setR_romx (n : Reg8) (v : Byte) : (s.setR n v).romx = s.romx := by cases n <;> rfl
@[simp] theorem State.setR_vram (n : Reg8) (v : Byte) : (s.setR n v).vram = s.vram := by cases n <;> rfl
@[simp] theorem State.setR_eram (n : Reg8) (v : Byte) : (s.setR n v).eram = s.eram := by cases n <;> rfl
@[simp] theorem State.setR_wram0 (n : Reg8) (v : Byte) : (s.setR n v).wram0 = s.wram0 := by cases n <;> rfl
@[simp] theorem State.setR_wramx (n : Reg8) (v : Byte) : (s.setR n v).wramx = s.wramx := by cases n <;> rfl
@[simp] theorem State.setR_status (n : Reg8) (v : Byte) : (s.setR n v).status = s.status := by cases n <;> rfl

/-- Reading a register after writing one: the eight are independent (R15, R17). -/
theorem State.getR_setR (m n : Reg8) (v : Byte) : (s.setR n v).getR m = if m = n then v else s.getR m := by
  cases m <;> cases n <;> rfl

/-! ### A pair -/

@[simp] theorem State.setPair_AF_a (v : Word) : (s.setPair .AF v).a = highByte v := rfl
@[simp] theorem State.setPair_AF_f (v : Word) : (s.setPair .AF v).f = lowByte v := rfl
@[simp] theorem State.setPair_AF_b (v : Word) : (s.setPair .AF v).b = s.b := rfl
@[simp] theorem State.setPair_AF_c (v : Word) : (s.setPair .AF v).c = s.c := rfl
@[simp] theorem State.setPair_AF_d (v : Word) : (s.setPair .AF v).d = s.d := rfl
@[simp] theorem State.setPair_AF_e (v : Word) : (s.setPair .AF v).e = s.e := rfl
@[simp] theorem State.setPair_AF_h (v : Word) : (s.setPair .AF v).h = s.h := rfl
@[simp] theorem State.setPair_AF_l (v : Word) : (s.setPair .AF v).l = s.l := rfl
@[simp] theorem State.setPair_BC_b (v : Word) : (s.setPair .BC v).b = highByte v := rfl
@[simp] theorem State.setPair_BC_c (v : Word) : (s.setPair .BC v).c = lowByte v := rfl
@[simp] theorem State.setPair_BC_a (v : Word) : (s.setPair .BC v).a = s.a := rfl
@[simp] theorem State.setPair_BC_f (v : Word) : (s.setPair .BC v).f = s.f := rfl
@[simp] theorem State.setPair_BC_d (v : Word) : (s.setPair .BC v).d = s.d := rfl
@[simp] theorem State.setPair_BC_e (v : Word) : (s.setPair .BC v).e = s.e := rfl
@[simp] theorem State.setPair_BC_h (v : Word) : (s.setPair .BC v).h = s.h := rfl
@[simp] theorem State.setPair_BC_l (v : Word) : (s.setPair .BC v).l = s.l := rfl
@[simp] theorem State.setPair_DE_d (v : Word) : (s.setPair .DE v).d = highByte v := rfl
@[simp] theorem State.setPair_DE_e (v : Word) : (s.setPair .DE v).e = lowByte v := rfl
@[simp] theorem State.setPair_DE_a (v : Word) : (s.setPair .DE v).a = s.a := rfl
@[simp] theorem State.setPair_DE_f (v : Word) : (s.setPair .DE v).f = s.f := rfl
@[simp] theorem State.setPair_DE_b (v : Word) : (s.setPair .DE v).b = s.b := rfl
@[simp] theorem State.setPair_DE_c (v : Word) : (s.setPair .DE v).c = s.c := rfl
@[simp] theorem State.setPair_DE_h (v : Word) : (s.setPair .DE v).h = s.h := rfl
@[simp] theorem State.setPair_DE_l (v : Word) : (s.setPair .DE v).l = s.l := rfl
@[simp] theorem State.setPair_HL_h (v : Word) : (s.setPair .HL v).h = highByte v := rfl
@[simp] theorem State.setPair_HL_l (v : Word) : (s.setPair .HL v).l = lowByte v := rfl
@[simp] theorem State.setPair_HL_a (v : Word) : (s.setPair .HL v).a = s.a := rfl
@[simp] theorem State.setPair_HL_f (v : Word) : (s.setPair .HL v).f = s.f := rfl
@[simp] theorem State.setPair_HL_b (v : Word) : (s.setPair .HL v).b = s.b := rfl
@[simp] theorem State.setPair_HL_c (v : Word) : (s.setPair .HL v).c = s.c := rfl
@[simp] theorem State.setPair_HL_d (v : Word) : (s.setPair .HL v).d = s.d := rfl
@[simp] theorem State.setPair_HL_e (v : Word) : (s.setPair .HL v).e = s.e := rfl
@[simp] theorem State.setPair_sp (p : Pair) (v : Word) : (s.setPair p v).sp = s.sp := by cases p <;> rfl
@[simp] theorem State.setPair_pc (p : Pair) (v : Word) : (s.setPair p v).pc = s.pc := by cases p <;> rfl
@[simp] theorem State.setPair_rom0 (p : Pair) (v : Word) : (s.setPair p v).rom0 = s.rom0 := by cases p <;> rfl
@[simp] theorem State.setPair_romx (p : Pair) (v : Word) : (s.setPair p v).romx = s.romx := by cases p <;> rfl
@[simp] theorem State.setPair_vram (p : Pair) (v : Word) : (s.setPair p v).vram = s.vram := by cases p <;> rfl
@[simp] theorem State.setPair_eram (p : Pair) (v : Word) : (s.setPair p v).eram = s.eram := by cases p <;> rfl
@[simp] theorem State.setPair_wram0 (p : Pair) (v : Word) : (s.setPair p v).wram0 = s.wram0 := by cases p <;> rfl
@[simp] theorem State.setPair_wramx (p : Pair) (v : Word) : (s.setPair p v).wramx = s.wramx := by cases p <;> rfl
@[simp] theorem State.setPair_status (p : Pair) (v : Word) : (s.setPair p v).status = s.status := by cases p <;> rfl

/-! ### PC, SP and the status latch -/

@[simp] theorem State.setPc_a (v : Word) : (s.setPc v).a = s.a := rfl
@[simp] theorem State.setPc_f (v : Word) : (s.setPc v).f = s.f := rfl
@[simp] theorem State.setPc_b (v : Word) : (s.setPc v).b = s.b := rfl
@[simp] theorem State.setPc_c (v : Word) : (s.setPc v).c = s.c := rfl
@[simp] theorem State.setPc_d (v : Word) : (s.setPc v).d = s.d := rfl
@[simp] theorem State.setPc_e (v : Word) : (s.setPc v).e = s.e := rfl
@[simp] theorem State.setPc_h (v : Word) : (s.setPc v).h = s.h := rfl
@[simp] theorem State.setPc_l (v : Word) : (s.setPc v).l = s.l := rfl
@[simp] theorem State.setPc_sp (v : Word) : (s.setPc v).sp = s.sp := rfl
@[simp] theorem State.setPc_pc (v : Word) : (s.setPc v).pc = v := rfl
@[simp] theorem State.setPc_rom0 (v : Word) : (s.setPc v).rom0 = s.rom0 := rfl
@[simp] theorem State.setPc_romx (v : Word) : (s.setPc v).romx = s.romx := rfl
@[simp] theorem State.setPc_vram (v : Word) : (s.setPc v).vram = s.vram := rfl
@[simp] theorem State.setPc_eram (v : Word) : (s.setPc v).eram = s.eram := rfl
@[simp] theorem State.setPc_wram0 (v : Word) : (s.setPc v).wram0 = s.wram0 := rfl
@[simp] theorem State.setPc_wramx (v : Word) : (s.setPc v).wramx = s.wramx := rfl
@[simp] theorem State.setPc_status (v : Word) : (s.setPc v).status = s.status := rfl
@[simp] theorem State.setSp_a (v : Word) : (s.setSp v).a = s.a := rfl
@[simp] theorem State.setSp_f (v : Word) : (s.setSp v).f = s.f := rfl
@[simp] theorem State.setSp_b (v : Word) : (s.setSp v).b = s.b := rfl
@[simp] theorem State.setSp_c (v : Word) : (s.setSp v).c = s.c := rfl
@[simp] theorem State.setSp_d (v : Word) : (s.setSp v).d = s.d := rfl
@[simp] theorem State.setSp_e (v : Word) : (s.setSp v).e = s.e := rfl
@[simp] theorem State.setSp_h (v : Word) : (s.setSp v).h = s.h := rfl
@[simp] theorem State.setSp_l (v : Word) : (s.setSp v).l = s.l := rfl
@[simp] theorem State.setSp_sp (v : Word) : (s.setSp v).sp = v := rfl
@[simp] theorem State.setSp_pc (v : Word) : (s.setSp v).pc = s.pc := rfl
@[simp] theorem State.setSp_rom0 (v : Word) : (s.setSp v).rom0 = s.rom0 := rfl
@[simp] theorem State.setSp_romx (v : Word) : (s.setSp v).romx = s.romx := rfl
@[simp] theorem State.setSp_vram (v : Word) : (s.setSp v).vram = s.vram := rfl
@[simp] theorem State.setSp_eram (v : Word) : (s.setSp v).eram = s.eram := rfl
@[simp] theorem State.setSp_wram0 (v : Word) : (s.setSp v).wram0 = s.wram0 := rfl
@[simp] theorem State.setSp_wramx (v : Word) : (s.setSp v).wramx = s.wramx := rfl
@[simp] theorem State.setSp_status (v : Word) : (s.setSp v).status = s.status := rfl
@[simp] theorem State.takeFault_a (v : Fault) : (s.takeFault v).a = s.a := rfl
@[simp] theorem State.takeFault_f (v : Fault) : (s.takeFault v).f = s.f := rfl
@[simp] theorem State.takeFault_b (v : Fault) : (s.takeFault v).b = s.b := rfl
@[simp] theorem State.takeFault_c (v : Fault) : (s.takeFault v).c = s.c := rfl
@[simp] theorem State.takeFault_d (v : Fault) : (s.takeFault v).d = s.d := rfl
@[simp] theorem State.takeFault_e (v : Fault) : (s.takeFault v).e = s.e := rfl
@[simp] theorem State.takeFault_h (v : Fault) : (s.takeFault v).h = s.h := rfl
@[simp] theorem State.takeFault_l (v : Fault) : (s.takeFault v).l = s.l := rfl
@[simp] theorem State.takeFault_sp (v : Fault) : (s.takeFault v).sp = s.sp := rfl
@[simp] theorem State.takeFault_pc (v : Fault) : (s.takeFault v).pc = s.pc := rfl
@[simp] theorem State.takeFault_rom0 (v : Fault) : (s.takeFault v).rom0 = s.rom0 := rfl
@[simp] theorem State.takeFault_romx (v : Fault) : (s.takeFault v).romx = s.romx := rfl
@[simp] theorem State.takeFault_vram (v : Fault) : (s.takeFault v).vram = s.vram := rfl
@[simp] theorem State.takeFault_eram (v : Fault) : (s.takeFault v).eram = s.eram := rfl
@[simp] theorem State.takeFault_wram0 (v : Fault) : (s.takeFault v).wram0 = s.wram0 := rfl
@[simp] theorem State.takeFault_wramx (v : Fault) : (s.takeFault v).wramx = s.wramx := rfl
@[simp] theorem State.takeFault_status (v : Fault) : (s.takeFault v).status = .faulted v := rfl
@[simp] theorem State.advancePc_a (v : Nat) : (s.advancePc v).a = s.a := rfl
@[simp] theorem State.advancePc_f (v : Nat) : (s.advancePc v).f = s.f := rfl
@[simp] theorem State.advancePc_b (v : Nat) : (s.advancePc v).b = s.b := rfl
@[simp] theorem State.advancePc_c (v : Nat) : (s.advancePc v).c = s.c := rfl
@[simp] theorem State.advancePc_d (v : Nat) : (s.advancePc v).d = s.d := rfl
@[simp] theorem State.advancePc_e (v : Nat) : (s.advancePc v).e = s.e := rfl
@[simp] theorem State.advancePc_h (v : Nat) : (s.advancePc v).h = s.h := rfl
@[simp] theorem State.advancePc_l (v : Nat) : (s.advancePc v).l = s.l := rfl
@[simp] theorem State.advancePc_sp (v : Nat) : (s.advancePc v).sp = s.sp := rfl
@[simp] theorem State.advancePc_pc (v : Nat) : (s.advancePc v).pc = s.pc + BitVec.ofNat 16 v := rfl
@[simp] theorem State.advancePc_rom0 (v : Nat) : (s.advancePc v).rom0 = s.rom0 := rfl
@[simp] theorem State.advancePc_romx (v : Nat) : (s.advancePc v).romx = s.romx := rfl
@[simp] theorem State.advancePc_vram (v : Nat) : (s.advancePc v).vram = s.vram := rfl
@[simp] theorem State.advancePc_eram (v : Nat) : (s.advancePc v).eram = s.eram := rfl
@[simp] theorem State.advancePc_wram0 (v : Nat) : (s.advancePc v).wram0 = s.wram0 := rfl
@[simp] theorem State.advancePc_wramx (v : Nat) : (s.advancePc v).wramx = s.wramx := rfl
@[simp] theorem State.advancePc_status (v : Nat) : (s.advancePc v).status = s.status := rfl

/-! ### One bank -/

@[simp] theorem State.putBank_a (r : Region) (p : Nat) (x : Bank) : (s.putBank r p x).a = s.a := by cases r <;> rfl
@[simp] theorem State.putBank_f (r : Region) (p : Nat) (x : Bank) : (s.putBank r p x).f = s.f := by cases r <;> rfl
@[simp] theorem State.putBank_b (r : Region) (p : Nat) (x : Bank) : (s.putBank r p x).b = s.b := by cases r <;> rfl
@[simp] theorem State.putBank_c (r : Region) (p : Nat) (x : Bank) : (s.putBank r p x).c = s.c := by cases r <;> rfl
@[simp] theorem State.putBank_d (r : Region) (p : Nat) (x : Bank) : (s.putBank r p x).d = s.d := by cases r <;> rfl
@[simp] theorem State.putBank_e (r : Region) (p : Nat) (x : Bank) : (s.putBank r p x).e = s.e := by cases r <;> rfl
@[simp] theorem State.putBank_h (r : Region) (p : Nat) (x : Bank) : (s.putBank r p x).h = s.h := by cases r <;> rfl
@[simp] theorem State.putBank_l (r : Region) (p : Nat) (x : Bank) : (s.putBank r p x).l = s.l := by cases r <;> rfl
@[simp] theorem State.putBank_sp (r : Region) (p : Nat) (x : Bank) : (s.putBank r p x).sp = s.sp := by cases r <;> rfl
@[simp] theorem State.putBank_pc (r : Region) (p : Nat) (x : Bank) : (s.putBank r p x).pc = s.pc := by cases r <;> rfl
@[simp] theorem State.putBank_status (r : Region) (p : Nat) (x : Bank) : (s.putBank r p x).status = s.status := by cases r <;> rfl
@[simp] theorem State.putBank_rom0_rom0 (p : Nat) (x : Bank) : (s.putBank .rom0 p x).rom0 = x := rfl
@[simp] theorem State.putBank_rom0_romx (p : Nat) (x : Bank) : (s.putBank .rom0 p x).romx = s.romx := rfl
@[simp] theorem State.putBank_rom0_vram (p : Nat) (x : Bank) : (s.putBank .rom0 p x).vram = s.vram := rfl
@[simp] theorem State.putBank_rom0_eram (p : Nat) (x : Bank) : (s.putBank .rom0 p x).eram = s.eram := rfl
@[simp] theorem State.putBank_rom0_wram0 (p : Nat) (x : Bank) : (s.putBank .rom0 p x).wram0 = s.wram0 := rfl
@[simp] theorem State.putBank_rom0_wramx (p : Nat) (x : Bank) : (s.putBank .rom0 p x).wramx = s.wramx := rfl
@[simp] theorem State.putBank_romx_rom0 (p : Nat) (x : Bank) : (s.putBank .romx p x).rom0 = s.rom0 := rfl
@[simp] theorem State.putBank_romx_romx (p : Nat) (x : Bank) : (s.putBank .romx p x).romx = s.romx.setPage p x := rfl
@[simp] theorem State.putBank_romx_vram (p : Nat) (x : Bank) : (s.putBank .romx p x).vram = s.vram := rfl
@[simp] theorem State.putBank_romx_eram (p : Nat) (x : Bank) : (s.putBank .romx p x).eram = s.eram := rfl
@[simp] theorem State.putBank_romx_wram0 (p : Nat) (x : Bank) : (s.putBank .romx p x).wram0 = s.wram0 := rfl
@[simp] theorem State.putBank_romx_wramx (p : Nat) (x : Bank) : (s.putBank .romx p x).wramx = s.wramx := rfl
@[simp] theorem State.putBank_vram_rom0 (p : Nat) (x : Bank) : (s.putBank .vram p x).rom0 = s.rom0 := rfl
@[simp] theorem State.putBank_vram_romx (p : Nat) (x : Bank) : (s.putBank .vram p x).romx = s.romx := rfl
@[simp] theorem State.putBank_vram_vram (p : Nat) (x : Bank) : (s.putBank .vram p x).vram = x := rfl
@[simp] theorem State.putBank_vram_eram (p : Nat) (x : Bank) : (s.putBank .vram p x).eram = s.eram := rfl
@[simp] theorem State.putBank_vram_wram0 (p : Nat) (x : Bank) : (s.putBank .vram p x).wram0 = s.wram0 := rfl
@[simp] theorem State.putBank_vram_wramx (p : Nat) (x : Bank) : (s.putBank .vram p x).wramx = s.wramx := rfl
@[simp] theorem State.putBank_eram_rom0 (p : Nat) (x : Bank) : (s.putBank .eram p x).rom0 = s.rom0 := rfl
@[simp] theorem State.putBank_eram_romx (p : Nat) (x : Bank) : (s.putBank .eram p x).romx = s.romx := rfl
@[simp] theorem State.putBank_eram_vram (p : Nat) (x : Bank) : (s.putBank .eram p x).vram = s.vram := rfl
@[simp] theorem State.putBank_eram_eram (p : Nat) (x : Bank) : (s.putBank .eram p x).eram = x := rfl
@[simp] theorem State.putBank_eram_wram0 (p : Nat) (x : Bank) : (s.putBank .eram p x).wram0 = s.wram0 := rfl
@[simp] theorem State.putBank_eram_wramx (p : Nat) (x : Bank) : (s.putBank .eram p x).wramx = s.wramx := rfl
@[simp] theorem State.putBank_wram0_rom0 (p : Nat) (x : Bank) : (s.putBank .wram0 p x).rom0 = s.rom0 := rfl
@[simp] theorem State.putBank_wram0_romx (p : Nat) (x : Bank) : (s.putBank .wram0 p x).romx = s.romx := rfl
@[simp] theorem State.putBank_wram0_vram (p : Nat) (x : Bank) : (s.putBank .wram0 p x).vram = s.vram := rfl
@[simp] theorem State.putBank_wram0_eram (p : Nat) (x : Bank) : (s.putBank .wram0 p x).eram = s.eram := rfl
@[simp] theorem State.putBank_wram0_wram0 (p : Nat) (x : Bank) : (s.putBank .wram0 p x).wram0 = x := rfl
@[simp] theorem State.putBank_wram0_wramx (p : Nat) (x : Bank) : (s.putBank .wram0 p x).wramx = s.wramx := rfl
@[simp] theorem State.putBank_wramx_rom0 (p : Nat) (x : Bank) : (s.putBank .wramx p x).rom0 = s.rom0 := rfl
@[simp] theorem State.putBank_wramx_romx (p : Nat) (x : Bank) : (s.putBank .wramx p x).romx = s.romx := rfl
@[simp] theorem State.putBank_wramx_vram (p : Nat) (x : Bank) : (s.putBank .wramx p x).vram = s.vram := rfl
@[simp] theorem State.putBank_wramx_eram (p : Nat) (x : Bank) : (s.putBank .wramx p x).eram = s.eram := rfl
@[simp] theorem State.putBank_wramx_wram0 (p : Nat) (x : Bank) : (s.putBank .wramx p x).wram0 = s.wram0 := rfl
@[simp] theorem State.putBank_wramx_wramx (p : Nat) (x : Bank) : (s.putBank .wramx p x).wramx = s.wramx.setPage p x := rfl

/-! ### XOR's result -/

@[simp] theorem State.writeXor_a (v : Byte) : (s.writeXor v).a = v := rfl
@[simp] theorem State.writeXor_f (v : Byte) : (s.writeXor v).f = s.f := rfl
@[simp] theorem State.writeXor_b (v : Byte) : (s.writeXor v).b = s.b := rfl
@[simp] theorem State.writeXor_c (v : Byte) : (s.writeXor v).c = s.c := rfl
@[simp] theorem State.writeXor_d (v : Byte) : (s.writeXor v).d = s.d := rfl
@[simp] theorem State.writeXor_e (v : Byte) : (s.writeXor v).e = s.e := rfl
@[simp] theorem State.writeXor_h (v : Byte) : (s.writeXor v).h = s.h := rfl
@[simp] theorem State.writeXor_l (v : Byte) : (s.writeXor v).l = s.l := rfl
@[simp] theorem State.writeXor_sp (v : Byte) : (s.writeXor v).sp = s.sp := rfl
@[simp] theorem State.writeXor_pc (v : Byte) : (s.writeXor v).pc = s.pc := rfl
@[simp] theorem State.writeXor_rom0 (v : Byte) : (s.writeXor v).rom0 = s.rom0 := rfl
@[simp] theorem State.writeXor_romx (v : Byte) : (s.writeXor v).romx = s.romx := rfl
@[simp] theorem State.writeXor_vram (v : Byte) : (s.writeXor v).vram = s.vram := rfl
@[simp] theorem State.writeXor_eram (v : Byte) : (s.writeXor v).eram = s.eram := rfl
@[simp] theorem State.writeXor_wram0 (v : Byte) : (s.writeXor v).wram0 = s.wram0 := rfl
@[simp] theorem State.writeXor_wramx (v : Byte) : (s.writeXor v).wramx = s.wramx := rfl
@[simp] theorem State.writeXor_status (v : Byte) : (s.writeXor v).status = s.status := rfl

/-! ### High byte, low byte, word -/

@[simp] theorem highByte_wordOf (hi lo : Byte) : highByte (wordOf hi lo) = hi := by
  apply BitVec.eq_of_getLsbD_eq
  intro i hi'
  simp only [highByte, wordOf, BitVec.getLsbD_extractLsb', BitVec.getLsbD_append]
  simp [hi']

@[simp] theorem lowByte_wordOf (hi lo : Byte) : lowByte (wordOf hi lo) = lo := by
  apply BitVec.eq_of_getLsbD_eq
  intro i hi'
  simp only [lowByte, wordOf, BitVec.getLsbD_extractLsb', BitVec.getLsbD_append]
  simp [hi']

@[simp] theorem wordOf_highByte_lowByte (v : Word) : wordOf (highByte v) (lowByte v) = v := by
  apply BitVec.eq_of_getLsbD_eq
  intro i hi'
  simp only [wordOf, highByte, lowByte, BitVec.getLsbD_append, BitVec.getLsbD_extractLsb']
  by_cases h : i < 8
  · simp [h]
  · simp [h, show i - 8 < 8 by omega, show 8 + (i - 8) = i by omega]

end Sys2Proof.Machine
end

