-- ==== Sys2Proof/Laws/Memory.lean ====
section
/-! SUPPORT. The bytes of one Bank: a read after a write, the canonical form, equal contents are equal data; then the same
for Bank and PagedBank. -/

namespace Sys2Proof.Machine

/-! ### Memory -/

@[simp] theorem Memory.read_nil (k : Nat) : Memory.read [] k = unlistedByte := rfl

theorem Memory.read_cons (k' k : Nat) (w : Byte) (m : Memory) :
    Memory.read ((k', w) :: m) k = if k' = k then w else Memory.read m k := rfl

/-- An offset that no entry lists reads as unlisted. -/
theorem Memory.read_unlisted {m : Memory} {k : Nat} (h : ∀ x ∈ m, x.1 ≠ k) : Memory.read m k = unlistedByte := by
  induction m with
  | nil => rfl
  | cons x m ih =>
    obtain ⟨k', w⟩ := x
    rw [Memory.read_cons, if_neg (h _ List.mem_cons_self)]
    exact ih fun y hy => h y (List.mem_cons_of_mem _ hy)

/-- A write leaves every other offset alone. -/
theorem Memory.read_write_ne (m : Memory) {k k' : Nat} (v : Byte) (h : k' ≠ k) :
    Memory.read (Memory.write m k v) k' = Memory.read m k' := by
  induction m with
  | nil =>
    rw [Memory.write]
    split
    · rfl
    · rw [Memory.read_cons, if_neg (Ne.symm h)]
  | cons x m ih =>
    obtain ⟨j, w⟩ := x
    rw [Memory.write]
    split
    · split
      · rfl
      · rw [Memory.read_cons, if_neg (Ne.symm h)]
    · split
      · subst_vars
        split <;> simp [Memory.read_cons, Ne.symm h]
      · simp only [Memory.read_cons, ih]

/-- The tail of a canonical memory is canonical and lists only higher offsets. -/
theorem Memory.wf_cons {k : Nat} {w : Byte} {m : Memory} :
    Memory.wf ((k, w) :: m) ↔ (∀ x ∈ m, k < x.1) ∧ w ≠ unlistedByte ∧ Memory.wf m := by
  simp only [Memory.wf, List.pairwise_cons, List.forall_mem_cons]
  tauto

/-- A read of the offset just written gives the value written. -/
theorem Memory.read_write_same {m : Memory} (hm : Memory.wf m) (k : Nat) (v : Byte) :
    Memory.read (Memory.write m k v) k = v := by
  induction m with
  | nil =>
    rw [Memory.write]
    split
    · simp_all
    · simp [Memory.read_cons]
  | cons x m ih =>
    obtain ⟨j, w⟩ := x
    obtain ⟨hlt, -, hwf⟩ := Memory.wf_cons.mp hm
    rw [Memory.write]
    split
    · split
      · rw [Memory.read_unlisted]
        · simp_all
        · intro y hy
          rcases List.mem_cons.mp hy with rfl | hy
          · simp only; omega
          · have := hlt y hy; omega
      · simp [Memory.read_cons]
    · split
      · split
        · subst_vars
          rw [Memory.read_unlisted]
          intro y hy
          have := hlt y hy
          omega
        · simp [Memory.read_cons]
      · rw [Memory.read_cons, if_neg (by omega), ih hwf]

/-- What a write lists: the offset written, or what was listed before. -/
theorem Memory.mem_write {m : Memory} {k : Nat} {v : Byte} {x : Host.Cell} (hx : x ∈ Memory.write m k v) :
    (x = (k, v) ∧ v ≠ unlistedByte) ∨ x ∈ m := by
  induction m with
  | nil =>
    rw [Memory.write] at hx
    split at hx <;> simp_all
  | cons y m ih =>
    obtain ⟨j, w⟩ := y
    rw [Memory.write] at hx
    split at hx
    · split at hx
      · exact .inr hx
      · rcases List.mem_cons.mp hx with h | h
        · exact .inl ⟨h, by assumption⟩
        · exact .inr h
    · split at hx
      · split at hx
        · exact .inr (List.mem_cons_of_mem _ hx)
        · rcases List.mem_cons.mp hx with h | h
          · exact .inl ⟨h, by assumption⟩
          · exact .inr (List.mem_cons_of_mem _ h)
      · rcases List.mem_cons.mp hx with h | h
        · exact .inr (h ▸ List.mem_cons_self)
        · rcases ih h with h | h
          · exact .inl h
          · exact .inr (List.mem_cons_of_mem _ h)

/-- A write keeps the canonical form. -/
theorem Memory.write_wf {m : Memory} (hm : Memory.wf m) (k : Nat) (v : Byte) : Memory.wf (Memory.write m k v) := by
  induction m with
  | nil =>
    rw [Memory.write]
    split <;> simp_all [Memory.wf]
  | cons x m ih =>
    obtain ⟨j, w⟩ := x
    obtain ⟨hlt, hw, hwf⟩ := Memory.wf_cons.mp hm
    rw [Memory.write]
    split
    · split
      · exact hm
      · refine Memory.wf_cons.mpr ⟨?_, by assumption, hm⟩
        intro y hy
        rcases List.mem_cons.mp hy with rfl | hy
        · assumption
        · have := hlt y hy; omega
    · split
      · split
        · exact hwf
        · subst_vars
          exact Memory.wf_cons.mpr ⟨hlt, by assumption, hwf⟩
      · refine Memory.wf_cons.mpr ⟨?_, hw, ih hwf⟩
        intro y hy
        rcases Memory.mem_write hy with ⟨rfl, -⟩ | h
        · simp only; omega
        · exact hlt y h

theorem Memory.wf_nil : Memory.wf [] := by simp [Memory.wf]

/-! ### Bank -/

theorem Bank.read_of_lt {id : BankId} {b : Bank} {off : Nat} (h : off < b.capacity) :
    b.read id off = .ok (Memory.read b.cells off) := by
  rw [Bank.read, if_neg (by omega)]

theorem Bank.read_of_le {id : BankId} {b : Bank} {off : Nat} (h : b.capacity ≤ off) :
    b.read id off = .error (.outOfBounds id off) := by
  rw [Bank.read, if_pos h]

theorem Bank.write_of_lt {id : BankId} {b : Bank} {off : Nat} {v : Byte} (h : off < b.capacity) :
    b.write id off v = .ok { b with cells := Memory.write b.cells off v } := by
  rw [Bank.write, if_neg (by omega)]

theorem Bank.write_of_le {id : BankId} {b : Bank} {off : Nat} {v : Byte} (h : b.capacity ≤ off) :
    b.write id off v = .error (.outOfBounds id off) := by
  rw [Bank.write, if_pos h]

/-- A fresh Bank has the form of a Bank of its capacity. -/
theorem Bank.new_wf (n : Nat) : Bank.wf n (Bank.new n) := by simp [Bank.wf, Bank.new, Memory.wf]

/-- Everything a successful Bank write does: the offset is in range, and the Bank keeps its form. -/
theorem Bank.write_ok {id : BankId} {b b' : Bank} {off : Nat} {v : Byte} (h : b.write id off v = .ok b') :
    off < b.capacity ∧ b' = { b with cells := Memory.write b.cells off v } := by
  rw [Bank.write] at h
  split at h
  · cases h
  · exact ⟨by omega, by cases h; rfl⟩

/-- A Bank write keeps the Bank's form. -/
theorem Bank.write_wf {n : Nat} {id : BankId} {b b' : Bank} {off : Nat} {v : Byte} (hb : Bank.wf n b)
    (h : b.write id off v = .ok b') : Bank.wf n b' := by
  obtain ⟨hlt, rfl⟩ := Bank.write_ok h
  obtain ⟨hcap, hwf, hbound⟩ := hb
  refine ⟨hcap, Memory.write_wf hwf _ _, ?_⟩
  intro x hx
  rcases Memory.mem_write hx with ⟨rfl, -⟩ | hx
  · simp only; omega
  · exact hbound x hx

/-! ### PagedBank -/

/-- The pages that exist are those below the page count. -/
theorem PagedBank.page_cases (r : Region) (pb : PagedBank) (i : Nat) :
    (∃ b, i < pb.count ∧ pb.pages[i]? = some b ∧ pb.page r i = .ok b) ∨
    (pb.count ≤ i ∧ pb.page r i = .error (.pageOutOfRange r i)) := by
  unfold PagedBank.page PagedBank.count
  by_cases h : i < pb.pages.length
  · exact .inl ⟨pb.pages[i], h, List.getElem?_eq_getElem h, by rw [List.getElem?_eq_getElem h]⟩
  · exact .inr ⟨by omega, by rw [List.getElem?_eq_none (by omega)]⟩

theorem PagedBank.page_ok_iff {r : Region} {pb : PagedBank} {i : Nat} {b : Bank} :
    pb.page r i = .ok b ↔ pb.pages[i]? = some b := by
  rcases PagedBank.page_cases r pb i with ⟨b', -, h, h'⟩ | ⟨hle, h⟩
  · rw [h, h']; simp
  · rw [h, List.getElem?_eq_none hle]; simp

@[simp] theorem PagedBank.setPage_count (pb : PagedBank) (i : Nat) (b : Bank) : (pb.setPage i b).count = pb.count := by
  simp [PagedBank.setPage, PagedBank.count]

/-- The page written shows in that page (R41). -/
theorem PagedBank.page_setPage_same {r : Region} {pb : PagedBank} {i : Nat} (b : Bank) (h : i < pb.count) :
    (pb.setPage i b).page r i = .ok b := by
  rw [PagedBank.page_ok_iff]
  exact List.getElem?_set_self h

/-- Pages are not aliased: a write to one never shows in another (R29). -/
theorem PagedBank.page_setPage_ne {r : Region} {pb : PagedBank} {i j : Nat} (b : Bank) (h : i ≠ j) :
    (pb.setPage i b).page r j = pb.page r j := by
  simp only [PagedBank.page, PagedBank.setPage, List.getElem?_set_ne h]

theorem PagedBank.setPage_wf {n : Nat} {pb : PagedBank} {i : Nat} {b : Bank} (hpb : PagedBank.wf n pb) (hb : Bank.wf n b) :
    PagedBank.wf n (pb.setPage i b) := by
  refine ⟨by simpa using hpb.1, fun x hx => ?_⟩
  rcases List.mem_or_eq_of_mem_set hx with h | rfl
  · exact hpb.2 x h
  · exact hb

theorem PagedBank.new_wf {count : Nat} (n : Nat) (h : 0 < count) : PagedBank.wf n (PagedBank.new count n) := by
  refine ⟨by simpa [PagedBank.new, PagedBank.count] using h, fun b hb => ?_⟩
  rw [List.eq_of_mem_replicate hb]
  exact Bank.new_wf n

theorem PagedBank.page_wf {n : Nat} {r : Region} {pb : PagedBank} {i : Nat} {b : Bank} (hpb : PagedBank.wf n pb)
    (h : pb.page r i = .ok b) : Bank.wf n b :=
  hpb.2 b (List.mem_of_getElem? (PagedBank.page_ok_iff.mp h))

end Sys2Proof.Machine
end

