-- ==== Sys2Proof/Laws/Access.lean ====
section
/-! SUPPORT. The address decoder, the router and the access paths: what each can answer, said once. -/

namespace Sys2Proof.Machine

/-! ### Decoder -/

/-- The window of the region the decoder answers holds the address (20_memory.md R42). -/
theorem regionOf_ok_iff {addr : Word} {r : Region} :
    regionOf addr = .ok r ↔ r.base ≤ addr.toNat ∧ addr.toNat < r.base + r.capacity := by
  have := addr.isLt
  unfold regionOf
  cases r <;>
    simp only [Region.base, Region.capacity, Config.romBankSize, Config.vramSize, Config.eramSize, Config.wramBankSize] <;>
    (repeat' split) <;> simp <;> omega

/-- The decoder answers a region below 0xE000 and AddressOutOfRange from there on (R43). -/
theorem regionOf_cases (addr : Word) :
    (∃ r, addr.toNat < 0xE000 ∧ regionOf addr = .ok r) ∨
    (0xE000 ≤ addr.toNat ∧ regionOf addr = .error (.addressOutOfRange addr)) := by
  unfold regionOf
  (repeat' split) <;> simp <;> omega

theorem regionOf_unmapped {addr : Word} (h : 0xE000 ≤ addr.toNat) :
    regionOf addr = .error (.addressOutOfRange addr) := by
  rcases regionOf_cases addr with ⟨r, hlt, -⟩ | ⟨-, h⟩
  · omega
  · exact h

/-! ### Banks of a state -/

/-- Selecting a bank looks at the storage only. -/
theorem State.selectBank_congr {s t : State} (h : s.SameMemory t) (r : Region) (p : Nat) :
    t.selectBank r p = s.selectBank r p := by
  obtain ⟨h0, h1, h2, h3, h4, h5⟩ := h
  cases r <;> simp only [State.selectBank, h0, h1, h2, h3, h4, h5]

/-- A bank that a state of the right shape selects has its region's capacity and form. -/
theorem State.selectBank_wf {s : State} (hs : s.Inv) {r : Region} {p : Nat} {b : Bank}
    (h : s.selectBank r p = .ok b) : Bank.wf r.capacity b := by
  cases r <;> simp only [State.selectBank] at h
  · cases h; exact hs.rom0
  · exact PagedBank.page_wf hs.romx h
  · cases h; exact hs.vram
  · cases h; exact hs.eram
  · cases h; exact hs.wram0
  · exact PagedBank.page_wf hs.wramx h

/-- Page 0 exists in every region of a state of the right shape (R55). -/
theorem State.selectBank_zero {s : State} (hs : s.Inv) (r : Region) : ∃ b, s.selectBank r 0 = .ok b := by
  cases r <;> simp only [State.selectBank]
  · exact ⟨_, rfl⟩
  · rcases PagedBank.page_cases .romx s.romx 0 with ⟨b, -, -, h⟩ | ⟨h, -⟩
    · exact ⟨b, h⟩
    · exact absurd hs.romx.1 (by omega)
  · exact ⟨_, rfl⟩
  · exact ⟨_, rfl⟩
  · exact ⟨_, rfl⟩
  · rcases PagedBank.page_cases .wramx s.wramx 0 with ⟨b, -, -, h⟩ | ⟨h, -⟩
    · exact ⟨b, h⟩
    · exact absurd hs.wramx.1 (by omega)

/-- A bank put back where one of the right form was selected keeps the shape of the storage. -/
theorem State.putBank_inv {s : State} (hs : s.Inv) {r : Region} {p : Nat} {b : Bank} (hb : Bank.wf r.capacity b) :
    (s.putBank r p b).Inv := by
  cases r
  · exact { hs with rom0 := hb }
  · exact { hs with romx := PagedBank.setPage_wf hs.romx hb }
  · exact { hs with vram := hb }
  · exact { hs with eram := hb }
  · exact { hs with wram0 := hb }
  · exact { hs with wramx := PagedBank.setPage_wf hs.wramx hb, wramPages := by simpa using hs.wramPages }

/-- The bank just put is the one selected, where there was one. -/
theorem State.selectBank_putBank_same {s : State} {r : Region} {p : Nat} {b₀ : Bank} (b : Bank)
    (h : s.selectBank r p = .ok b₀) : (s.putBank r p b).selectBank r p = .ok b := by
  cases r <;> simp only [State.selectBank, State.putBank] at h ⊢
  · rcases PagedBank.page_cases .romx s.romx p with ⟨-, hlt, -, -⟩ | ⟨-, h'⟩
    · exact PagedBank.page_setPage_same b hlt
    · rw [h'] at h; cases h
  · rcases PagedBank.page_cases .wramx s.wramx p with ⟨-, hlt, -, -⟩ | ⟨-, h'⟩
    · exact PagedBank.page_setPage_same b hlt
    · rw [h'] at h; cases h

/-- A bank of another region, or another page of the same paged region, is not touched (R29, R30). -/
theorem State.selectBank_putBank_ne {s : State} {r r' : Region} {p p' : Nat} (b : Bank)
    (h : r' ≠ r ∨ (r.isPaged = true ∧ p' ≠ p)) : (s.putBank r p b).selectBank r' p' = s.selectBank r' p' := by
  rcases h with h | ⟨h, hp⟩
  · cases r <;> cases r' <;> first | rfl | exact absurd rfl h
  · cases r <;> cases r' <;> first
      | rfl
      | exact absurd h (by decide)
      | exact PagedBank.page_setPage_ne b (Ne.symm hp)

/-! ### Router -/

/-- The router reads storage only. -/
theorem State.resolve_congr {s t : State} (h : s.SameMemory t) (addr : Word) (p : Nat) :
    t.resolve addr p = s.resolve addr p := by
  simp only [State.resolve, State.selectBank_congr h]

/-- Everything the router can answer, in the order of its checks (R45, R46). -/
theorem State.resolve_cases (s : State) (addr : Word) (p : Nat) :
    (0xE000 ≤ addr.toNat ∧ s.resolve addr p = .error (.addressOutOfRange addr)) ∨
    ∃ r, regionOf addr = .ok r ∧
      ((∃ f, s.selectBank r p = .error f ∧ s.resolve addr p = .error f) ∨
       ∃ b, s.selectBank r p = .ok b ∧
        s.resolve addr p = .ok { region := r, page := p, bank := b, off := addr.toNat - r.base }) := by
  rcases regionOf_cases addr with ⟨r, -, hr⟩ | ⟨hge, h⟩
  · refine .inr ⟨r, hr, ?_⟩
    cases hb : s.selectBank r p with
    | error f => exact .inl ⟨f, rfl, by simp only [State.resolve, hr, hb]⟩
    | ok b => exact .inr ⟨b, rfl, by simp only [State.resolve, hr, hb]⟩
  · exact .inl ⟨hge, by simp only [State.resolve, h]⟩

/-- A successful route: the region, its bank, and the offset inside the window (R44). -/
theorem State.resolve_ok {s : State} {addr : Word} {p : Nat} {t : Target} (h : s.resolve addr p = .ok t) :
    regionOf addr = .ok t.region ∧ s.selectBank t.region p = .ok t.bank ∧ t.page = p ∧
      t.off = addr.toNat - t.region.base ∧ t.off < t.region.capacity := by
  rcases State.resolve_cases s addr p with ⟨-, h'⟩ | ⟨r, hr, ⟨f, -, h'⟩ | ⟨b, hb, h'⟩⟩
  · rw [h'] at h; cases h
  · rw [h'] at h; cases h
  · rw [h'] at h
    cases h
    have := regionOf_ok_iff.mp hr
    exact ⟨hr, hb, rfl, rfl, by simp only; omega⟩

/-- A core access at a mapped address is always routed, to page 0 (R55). -/
theorem State.resolve_core {s : State} (hs : s.Inv) {addr : Word} (h : addr.toNat < 0xE000) :
    ∃ t, s.resolve addr Config.activePage = .ok t ∧ Bank.wf t.region.capacity t.bank := by
  rcases State.resolve_cases s addr Config.activePage with ⟨hge, -⟩ | ⟨r, -, ⟨f, hf, -⟩ | ⟨b, hb, h'⟩⟩
  · omega
  · obtain ⟨b, hb⟩ := State.selectBank_zero hs r
    rw [Config.activePage, hb] at hf
    cases hf
  · exact ⟨_, h', State.selectBank_wf hs hb⟩

/-! ### Byte and word reads -/

theorem State.read8_congr {s t : State} (h : s.SameMemory t) (addr : Word) (p : Nat) : t.read8 addr p = s.read8 addr p := by
  simp only [State.read8, State.resolve_congr h]

theorem State.read16_congr {s t : State} (h : s.SameMemory t) (addr : Word) (p : Nat) :
    t.read16 addr p = s.read16 addr p := by
  simp only [State.read16, State.resolve_congr h]

/-- An unmapped address raises AddressOutOfRange whatever the page (R46, R47). -/
theorem State.read8_unmapped (s : State) {addr : Word} (h : 0xE000 ≤ addr.toNat) (p : Nat) :
    s.read8 addr p = .error (.addressOutOfRange addr) := by
  simp only [State.read8, State.resolve, regionOf_unmapped h]

theorem State.read16_unmapped (s : State) {addr : Word} (h : 0xE000 ≤ addr.toNat) (p : Nat) :
    s.read16 addr p = .error (.addressOutOfRange addr) := by
  simp only [State.read16, State.resolve, regionOf_unmapped h]

/-- A core byte read of a mapped address never faults (R55). -/
theorem State.memRead8_mapped {s : State} (hs : s.Inv) {addr : Word} (h : addr.toNat < 0xE000) :
    ∃ v, s.memRead8 addr = .ok v := by
  obtain ⟨t, ht, hwf⟩ := State.resolve_core hs h
  have hoff := (State.resolve_ok ht).2.2.2.2
  refine ⟨Memory.read t.bank.cells t.off, ?_⟩
  simp only [State.memRead8, State.read8, ht]
  exact Bank.read_of_lt (by rw [hwf.1]; exact hoff)

/-- A byte that the core reads stands at a mapped address (R47). -/
theorem State.memRead8_ok_lt {s : State} {addr : Word} {v : Byte} (h : s.memRead8 addr = .ok v) : addr.toNat < 0xE000 := by
  by_contra hge
  rw [State.memRead8, State.read8_unmapped s (by omega)] at h
  cases h

/-- The end of a window, by its region (R50). -/
theorem isWindowEnd_iff {addr : Word} {r : Region} (h : regionOf addr = .ok r) :
    isWindowEnd addr = true ↔ addr.toNat - r.base + 1 = r.capacity := by
  have hlt := addr.isLt
  have := regionOf_ok_iff.mp h
  simp only [isWindowEnd, List.contains_iff_mem, List.mem_cons, List.not_mem_nil, or_false, ← BitVec.toNat_inj]
  cases r <;>
    simp only [Region.base, Region.capacity, Config.romBankSize, Config.vramSize, Config.eramSize, Config.wramBankSize]
      at this ⊢ <;>
    simp <;> omega

end Sys2Proof.Machine
end

