-- ==== Sys2Proof/Laws/Decode.lean ====
section
/-! SUPPORT. What an opcode byte can select, said once; proofs cite it instead of unfolding the opcode map. -/

namespace Sys2Proof

/-- The seven outcomes of the opcode map (30_encoding.md R72, R75). -/
theorem decodeOpcode_cases (op : Byte) :
    (op = 0x00#8 ∧ decodeOpcode op = .op .nop) ∨ (op = 0xC3#8 ∧ decodeOpcode op = .opN16 .jumpNn) ∨
    (op = 0xAF#8 ∧ decodeOpcode op = .op .xorAA) ∨ (op = 0x21#8 ∧ decodeOpcode op = .opN16 .loadHLnn) ∨
    (op = 0x0E#8 ∧ decodeOpcode op = .opN8 .loadCn) ∨ (op = 0x06#8 ∧ decodeOpcode op = .opN8 .loadBn) ∨
    (op ∉ definedOpcodes ∧ decodeOpcode op = .op (.undefined op)) := by
  unfold decodeOpcode definedOpcodes
  (repeat' split) <;> simp_all

theorem decodeOpcode_nop : decodeOpcode 0x00#8 = .op .nop := rfl
theorem decodeOpcode_jump : decodeOpcode 0xC3#8 = .opN16 .jumpNn := rfl
theorem decodeOpcode_xor : decodeOpcode 0xAF#8 = .op .xorAA := rfl
theorem decodeOpcode_loadHL : decodeOpcode 0x21#8 = .opN16 .loadHLnn := rfl
theorem decodeOpcode_loadC : decodeOpcode 0x0E#8 = .opN8 .loadCn := rfl
theorem decodeOpcode_loadB : decodeOpcode 0x06#8 = .opN8 .loadBn := rfl

theorem decodeOpcode_undefined {op : Byte} (h : op ∉ definedOpcodes) : decodeOpcode op = .op (.undefined op) := by
  rcases decodeOpcode_cases op with ⟨rfl, -⟩ | ⟨rfl, -⟩ | ⟨rfl, -⟩ | ⟨rfl, -⟩ | ⟨rfl, -⟩ | ⟨rfl, -⟩ | ⟨-, h'⟩
  all_goals first | exact h' | exact absurd (by decide) h

end Sys2Proof
end

