-- ==== Sys2Proof/Laws/PerInstr.lean ====
section
/-! SUPPORT. The family EncodingLength: what is said of every instruction as syntax, one lemma per constructor. -/

namespace Sys2Proof.Laws.EncodingLength

/-- An instruction's encoding has the instruction's length, 1 to 3 bytes (30_encoding.md R67, R69). -/
def Statement (i : Instr) : Prop :=
  (encode i).length = instrLength i ∧ 1 ≤ instrLength i ∧ instrLength i ≤ 3

theorem nop : Statement .nop := ⟨rfl, by simp [instrLength], by simp [instrLength]⟩
theorem jumpNn (nn : Word) : Statement (.jumpNn nn) := ⟨rfl, by simp [instrLength], by simp [instrLength]⟩
theorem xorAA : Statement .xorAA := ⟨rfl, by simp [instrLength], by simp [instrLength]⟩
theorem loadHLnn (nn : Word) : Statement (.loadHLnn nn) := ⟨rfl, by simp [instrLength], by simp [instrLength]⟩
theorem loadCn (n : Byte) : Statement (.loadCn n) := ⟨rfl, by simp [instrLength], by simp [instrLength]⟩
theorem loadBn (n : Byte) : Statement (.loadBn n) := ⟨rfl, by simp [instrLength], by simp [instrLength]⟩
theorem undefined (op : Byte) : Statement (.undefined op) := ⟨rfl, by simp [instrLength], by simp [instrLength]⟩

end Sys2Proof.Laws.EncodingLength
end

