-- ==== Sys2Proof/Laws/Port.lean ====
section
/-! SUPPORT. The host's transactions: what each access answers, by the outcome of its access path, and the states any
transaction can leave, said once. -/

namespace Sys2Proof.Machine

variable {s s' : State} {addr : Word} {page : Nat} {f : Fault}

@[simp] theorem State.perform_getStatus (s : State) : s.perform .getStatus = (s, .status s.status) := rfl
@[simp] theorem State.perform_reset (s : State) (image : List Byte) :
    s.perform (.reset image) = (State.resetImage image, .done) := rfl

theorem State.perform_read8_of_ok {v : Byte} (h : s.read8 addr page = .ok v) :
    s.perform (.read8 addr page) = (s, .byte v) := by rw [State.perform, h]
theorem State.perform_read8_of_error (h : s.read8 addr page = .error f) :
    s.perform (.read8 addr page) = (s, .fault f) := by rw [State.perform, h]
theorem State.perform_read16_of_ok {v : Word} (h : s.read16 addr page = .ok v) :
    s.perform (.read16 addr page) = (s, .word v) := by rw [State.perform, h]
theorem State.perform_read16_of_error (h : s.read16 addr page = .error f) :
    s.perform (.read16 addr page) = (s, .fault f) := by rw [State.perform, h]
theorem State.perform_write8_of_ok {v : Byte} (h : s.write8 addr page v = .ok s') :
    s.perform (.write8 addr page v) = (s', .done) := by rw [State.perform, h, State.commitWrite]
theorem State.perform_write8_of_error {v : Byte} (h : s.write8 addr page v = .error f) :
    s.perform (.write8 addr page v) = (s, .fault f) := by rw [State.perform, h, State.commitWrite]
theorem State.perform_write16_of_ok {v : Word} (h : s.write16 addr page v = .ok s') :
    s.perform (.write16 addr page v) = (s', .done) := by rw [State.perform, h, State.commitWrite]
theorem State.perform_write16_of_error {v : Word} (h : s.write16 addr page v = .error f) :
    s.perform (.write16 addr page v) = (s, .fault f) := by rw [State.perform, h, State.commitWrite]

/-- Every way a transaction can end: it leaves the state as it was, or it is a register write, a successful memory write or
a reset and is done (R10). -/
theorem State.perform_cases (s : State) (tr : Transaction) :
    (s.perform tr).1 = s ∨
    (∃ n v, tr = .setR n v ∧ s.perform tr = (s.setR n v, .done)) ∨
    (∃ p v, tr = .setPair p v ∧ s.perform tr = (s.setPair p v, .done)) ∨
    (∃ v, tr = .setSp v ∧ s.perform tr = (s.setSp v, .done)) ∨
    (∃ v, tr = .setPc v ∧ s.perform tr = (s.setPc v, .done)) ∨
    (∃ addr page v s', tr = .write8 addr page v ∧ s.write8 addr page v = .ok s' ∧ s.perform tr = (s', .done)) ∨
    (∃ addr page v s', tr = .write16 addr page v ∧ s.write16 addr page v = .ok s' ∧ s.perform tr = (s', .done)) ∨
    ∃ image, tr = .reset image ∧ s.perform tr = (State.resetImage image, .done) := by
  cases tr with
  | getR | getPair | getSp | getPc | getStatus => exact .inl rfl
  | setR n v => exact .inr (.inl ⟨n, v, rfl, rfl⟩)
  | setPair p v => exact .inr (.inr (.inl ⟨p, v, rfl, rfl⟩))
  | setSp v => exact .inr (.inr (.inr (.inl ⟨v, rfl, rfl⟩)))
  | setPc v => exact .inr (.inr (.inr (.inr (.inl ⟨v, rfl, rfl⟩))))
  | read8 addr page =>
    refine .inl ?_
    cases h : s.read8 addr page with
    | ok v => rw [State.perform_read8_of_ok h]
    | error f => rw [State.perform_read8_of_error h]
  | read16 addr page =>
    refine .inl ?_
    cases h : s.read16 addr page with
    | ok v => rw [State.perform_read16_of_ok h]
    | error f => rw [State.perform_read16_of_error h]
  | write8 addr page v =>
    cases h : s.write8 addr page v with
    | ok s' => exact .inr (.inr (.inr (.inr (.inr (.inl ⟨_, _, _, s', rfl, h, State.perform_write8_of_ok h⟩)))))
    | error f => exact .inl (by rw [State.perform_write8_of_error h])
  | write16 addr page v =>
    cases h : s.write16 addr page v with
    | ok s' => exact .inr (.inr (.inr (.inr (.inr (.inr (.inl ⟨_, _, _, s', rfl, h, State.perform_write16_of_ok h⟩))))))
    | error f => exact .inl (by rw [State.perform_write16_of_error h])
  | reset image => exact .inr (.inr (.inr (.inr (.inr (.inr (.inr ⟨image, rfl, rfl⟩))))))

end Sys2Proof.Machine
end

