-- ==== Sys2Proof/Laws/Step.lean ====
section
/-! SUPPORT. What fetching an instruction, an instruction's meaning and a step can do, said once. -/

namespace Sys2Proof.Machine

/-- Every meaning answers a next state; this is the one each gives. -/
def execResult (i : Instr) (s : State) : State :=
  match i with
  | .nop => s
  | .jumpNn nn => s.setPc nn
  | .xorAA => s.writeXor (s.getR .A ^^^ s.getR .A)
  | .loadHLnn nn => (s.setPair .HL nn).advancePc 2
  | .loadCn n => (s.setR .C n).advancePc 1
  | .loadBn n => (s.setR .B n).advancePc 1
  | .undefined op => s.takeFault (decodeFault op (s.pc - 1#16))

theorem exec_eq (i : Instr) (s : State) : exec i s = .next (execResult i s) := by cases i <;> rfl

/-- The core's operand and opcode reads see storage only. -/
theorem State.advancePc_sameMemory (s : State) (k : Nat) : s.SameMemory (s.advancePc k) :=
  ⟨rfl, rfl, rfl, rfl, rfl, rfl⟩

@[simp] theorem State.memRead8_advancePc (s : State) (k : Nat) (addr : Word) :
    (s.advancePc k).memRead8 addr = s.memRead8 addr := State.read8_congr (s.advancePc_sameMemory k) addr _

@[simp] theorem State.memRead16_advancePc (s : State) (k : Nat) (addr : Word) :
    (s.advancePc k).memRead16 addr = s.memRead16 addr := State.read16_congr (s.advancePc_sameMemory k) addr _

/-- Everything fetching an instruction can answer: the opcode's own read faults with `pc` unmoved; the operand's read
faults with `pc` one on; or the instruction is there and its operation starts with `pc` one on (R82 to R85, R111). -/
theorem State.fetch_cases (s : State) :
    (∃ f, s.memRead8 s.pc = .error f ∧ s.fetch = .error (s.takeFault f)) ∨
    (∃ op f, s.memRead8 s.pc = .ok op ∧ (s.advancePc 1).fetchOperand (decodeOpcode op) = .error f ∧
      s.fetch = .error ((s.advancePc 1).takeFault f)) ∨
    (∃ op i, s.memRead8 s.pc = .ok op ∧ (s.advancePc 1).fetchOperand (decodeOpcode op) = .ok i ∧
      s.fetch = .ok (i, s.advancePc 1)) := by
  cases h : s.memRead8 s.pc with
  | error f => exact .inl ⟨f, rfl, by simp only [State.fetch, h]⟩
  | ok op =>
    cases h' : (s.advancePc 1).fetchOperand (decodeOpcode op) with
    | error f => exact .inr (.inl ⟨op, f, rfl, h', by simp only [State.fetch, h, h']⟩)
    | ok i => exact .inr (.inr ⟨op, i, rfl, h', by simp only [State.fetch, h, h']⟩)

/-- Everything a step can do (R81, R89): it always answers a next state. -/
theorem step_cases (s : State) :
    (∃ f, s.status = .faulted f ∧ step s = .next s) ∨
    (s.status = .running ∧
      ((∃ f, s.memRead8 s.pc = .error f ∧ step s = .next (s.takeFault f)) ∨
       (∃ op f, s.memRead8 s.pc = .ok op ∧ (s.advancePc 1).fetchOperand (decodeOpcode op) = .error f ∧
        step s = .next ((s.advancePc 1).takeFault f)) ∨
       (∃ op i, s.memRead8 s.pc = .ok op ∧ (s.advancePc 1).fetchOperand (decodeOpcode op) = .ok i ∧
        step s = .next (execResult i (s.advancePc 1))))) := by
  cases hst : s.status with
  | faulted f => exact .inl ⟨f, rfl, by simp only [step, hst]⟩
  | running =>
    refine .inr ⟨rfl, ?_⟩
    rcases s.fetch_cases with ⟨f, h, h'⟩ | ⟨op, f, h, hf, h'⟩ | ⟨op, i, h, hi, h'⟩
    · exact .inl ⟨f, h, by simp only [step, hst, h']⟩
    · exact .inr (.inl ⟨op, f, h, hf, by simp only [step, hst, h']⟩)
    · exact .inr (.inr ⟨op, i, h, hi, by simp only [step, hst, h', exec_eq]⟩)

/-- No meaning touches memory, SP, D or E; none but the taking of a fault touches the status. -/
theorem execResult_frame (i : Instr) (s : State) :
    s.SameMemory (execResult i s) ∧ (execResult i s).sp = s.sp ∧ (execResult i s).f = s.f ∧
      (execResult i s).d = s.d ∧ (execResult i s).e = s.e := by
  cases i <;> exact ⟨⟨rfl, rfl, rfl, rfl, rfl, rfl⟩, rfl, rfl, rfl, rfl⟩

/-- A run of `k + 1` steps is one step and then a run of `k`. -/
theorem run_succ_of_step {s t : State} (k : Nat) (h : step s = .next t) : core.run (k + 1) s = core.run k t := by
  have h' : core.step s = .next t := h
  simp only [Host.Core.run, h']

end Sys2Proof.Machine
end

