-- ==== Sys2Proof/Laws/Writes.lean ====
section
/-! SUPPORT. The write paths and the loader: what a successful one does, and that each keeps the shape of the storage and
its canonical form. -/

namespace Sys2Proof.Machine

/-- Everything a successful byte write does: it routes, and puts back the routed bank with one byte written (R51). -/
theorem State.write8_ok {s s' : State} {addr : Word} {p : Nat} {v : Byte} (h : s.write8 addr p v = .ok s') :
    ∃ t b, s.resolve addr p = .ok t ∧ t.bank.write t.id t.off v = .ok b ∧ s' = s.putBank t.region t.page b := by
  rw [State.write8] at h
  split at h
  · cases h
  · split at h
    · cases h
    · exact ⟨_, _, by assumption, by assumption, by cases h; rfl⟩

/-- Everything a successful word write does: both bytes lie in the routed bank, and go in low byte first (R53). -/
theorem State.write16_ok {s s' : State} {addr : Word} {p : Nat} {v : Word} (h : s.write16 addr p v = .ok s') :
    ∃ t b b', s.resolve addr p = .ok t ∧ t.off + 1 < t.bank.capacity ∧ t.bank.write t.id t.off (lowByte v) = .ok b ∧
      b.write t.id (t.off + 1) (highByte v) = .ok b' ∧ s' = s.putBank t.region t.page b' := by
  rw [State.write16] at h
  split at h
  · cases h
  · split at h
    · cases h
    · split at h
      · cases h
      · split at h
        · cases h
        · exact ⟨_, _, _, by assumption, by omega, by assumption, by assumption, by cases h; rfl⟩

theorem State.write8_inv {s s' : State} (hs : s.Inv) {addr : Word} {p : Nat} {v : Byte} (h : s.write8 addr p v = .ok s') :
    s'.Inv := by
  obtain ⟨t, b, ht, hb, rfl⟩ := State.write8_ok h
  exact State.putBank_inv hs (Bank.write_wf (State.selectBank_wf hs (State.resolve_ok ht).2.1) hb)

theorem State.write16_inv {s s' : State} (hs : s.Inv) {addr : Word} {p : Nat} {v : Word}
    (h : s.write16 addr p v = .ok s') : s'.Inv := by
  obtain ⟨t, b, b', ht, -, hb, hb', rfl⟩ := State.write16_ok h
  exact State.putBank_inv hs (Bank.write_wf (Bank.write_wf (State.selectBank_wf hs (State.resolve_ok ht).2.1) hb) hb')

theorem State.placeBytes_inv {s : State} (hs : s.Inv) (addr : Word) (vs : List Byte) : (s.placeBytes addr vs).Inv := by
  induction vs generalizing s addr with
  | nil => exact hs
  | cons v vs ih =>
    rw [State.placeBytes]
    split
    · exact hs
    · exact ih (State.write8_inv hs (by assumption)) _

/-- A Bank keeps its form as bytes are stored into it. -/
theorem Bank.store_wf {n : Nat} {id : BankId} {b b' : Bank} {i : Nat} {vs : List Byte} (hb : Bank.wf n b)
    (h : b.store id i vs = .ok b') : Bank.wf n b' := by
  induction vs generalizing b i with
  | nil => cases h; exact hb
  | cons v vs ih =>
    rw [Bank.store] at h
    split at h
    · cases h
    · exact ih (Bank.write_wf hb (by assumption)) h

theorem State.storeChunk_inv {s s' : State} (hs : s.Inv) {image : List Byte} {k : Nat} (h : s.storeChunk image k = .ok s') :
    s'.Inv := by
  rw [State.storeChunk] at h
  split at h
  · cases h
  · split at h
    · cases h
    · cases h
      exact State.putBank_inv hs (Bank.store_wf (State.selectBank_wf hs (by assumption)) (by assumption))

theorem State.storeChunks_inv {s s' : State} (hs : s.Inv) {image : List Byte} {ks : List Nat}
    (h : s.storeChunks image ks = .ok s') : s'.Inv := by
  induction ks generalizing s with
  | nil => cases h; exact hs
  | cons k ks ih =>
    rw [State.storeChunks] at h
    split at h
    · cases h
    · exact ih (State.storeChunk_inv hs (by assumption)) h

/-- The loader leaves a storage of the right shape when it starts from one. -/
theorem State.loadRom_inv {s s' : State} (hs : s.Inv) {image : List Byte} (h : s.loadRom image = .ok s') : s'.Inv :=
  State.storeChunks_inv (s := { s with romx := PagedBank.new (romPages image.length) Config.romBankSize })
    { hs with romx := PagedBank.new_wf _ (by rw [romPages]; omega) } h

/-- The memory of the reset state lists nothing. -/
theorem State.reset_memory_wf :
    Memory.wf State.reset.rom0.cells ∧ (∀ b ∈ State.reset.romx.pages, Memory.wf b.cells) ∧
    Memory.wf State.reset.vram.cells ∧ Memory.wf State.reset.eram.cells ∧ Memory.wf State.reset.wram0.cells ∧
    ∀ b ∈ State.reset.wramx.pages, Memory.wf b.cells := by
  refine ⟨Memory.wf_nil, fun b hb => ?_, Memory.wf_nil, Memory.wf_nil, Memory.wf_nil, fun b hb => ?_⟩ <;>
    rw [List.eq_of_mem_replicate hb] <;> exact Memory.wf_nil

end Sys2Proof.Machine
end

