-- ==== Sys2Proof/Tests/Slice0.lean ====
section
/-! SUPPORT. Tests: the well-formedness smoke test, words written out from 30_encoding.md's tables, the vectors of
95_test_vectors.md one step or one access at a time, and for every obligation with hypotheses a witness of them. -/

namespace Sys2Proof.Tests

open Sys2Proof.Machine

/-! ### Small machines -/

/-- After reset with no image, the code placed at `pc` (95_test_vectors.md, part 2.5's preparation). -/
def machineAt (pc : Word) (code : List Byte) : State := ({ State.reset with pc := pc }).placeBytes pc code

/-- A machine with seven work-RAM pages, the count the vectors of 95_test_vectors.md part 2.3 assume. -/
def sevenPages : State := { State.reset with wramx := PagedBank.new 7 0x1000 }

/-- The state a step leaves, where it answers one. -/
def after (s : State) : Option State :=
  match step s with
  | .next t => some t
  | .fault _ => none
  | .refused _ => none

/-- The value an access answers, where it does. -/
def valueOf {α : Type} : Except Fault α → Option α
  | .ok v => some v
  | .error _ => none

/-- The fault an access answers, where it does. -/
def faultOf {α : Type} : Except Fault α → Option Fault
  | .ok _ => none
  | .error f => some f

theorem ok_of_valueOf {α : Type} {e : Except Fault α} {v : α} (h : valueOf e = some v) : e = .ok v := by
  cases e with
  | ok w => exact congrArg Except.ok (Option.some.inj h)
  | error f => cases h

theorem steps_to {s : State} {p : State → Prop} [DecidablePred p] (h : (after s).any (fun t => decide (p t)) = true) :
    ∃ t, step s = .next t ∧ p t := by
  unfold after at h
  split at h
  · exact ⟨_, by assumption, by simpa using h⟩
  · cases h
  · cases h

/-- The machines of these tests have the storage of R30. -/
theorem machineAt_inv (pc : Word) (code : List Byte) : (machineAt pc code).Inv :=
  State.placeBytes_inv
    { rom0 := Bank.new_wf _, romx := PagedBank.new_wf _ (by decide), vram := Bank.new_wf _, eram := Bank.new_wf _
      wram0 := Bank.new_wf _, wramx := PagedBank.new_wf _ (by rw [Config.wramPages]; omega)
      wramPages := by simp [State.reset, PagedBank.new, PagedBank.count] } pc code

/-! ### Well-formedness: the check refuses an UNDEFINED that holds a defined opcode (R75) -/

theorem test_undefined_of_defined_is_ill_formed :
    (Instr.undefined 0x00#8).wellFormed = false ∧ (Instr.undefined 0xC3#8).wellFormed = false ∧
    (Instr.undefined 0xAF#8).wellFormed = false ∧ (Instr.undefined 0x21#8).wellFormed = false ∧
    (Instr.undefined 0x0E#8).wellFormed = false ∧ (Instr.undefined 0x06#8).wellFormed = false := by decide

theorem test_undefined_is_well_formed :
    (Instr.undefined 0xCB#8).wellFormed = true ∧ (Instr.undefined 0xDD#8).wellFormed = true := by decide

/-! ### Decoding: every constructor by a word written out from R68 and R72's binary column -/

theorem test_decode_nop : decode [0b00000000#8] = .ok (.nop, []) := rfl
theorem test_decode_jump : decode [0b11000011#8, 0b00010000#8, 0b00000000#8] = .ok (.jumpNn 0x0010#16, []) := rfl
theorem test_decode_jump_high_byte : decode [0b11000011#8, 0b00000000#8, 0b11000000#8] = .ok (.jumpNn 0xC000#16, []) := rfl
theorem test_decode_xor : decode [0b10101111#8] = .ok (.xorAA, []) := rfl
theorem test_decode_loadHL : decode [0b00100001#8, 0b00110100#8, 0b00010010#8] = .ok (.loadHLnn 0x1234#16, []) := rfl
theorem test_decode_loadC : decode [0b00001110#8, 0b01111111#8] = .ok (.loadCn 0x7F#8, []) := rfl
theorem test_decode_loadB : decode [0b00000110#8, 0b10000000#8] = .ok (.loadBn 0x80#8, []) := rfl
/-- 0xCB is no prefix: the byte after it is not read (R77). -/
theorem test_decode_undefined : decode [0xCB#8, 0x37#8] = .ok (.undefined 0xCB#8, [0x37#8]) := rfl
/-- The neighbours of the six opcodes in their families are undefined (R73). -/
theorem test_neighbours_are_undefined :
    ∀ op ∈ [0x16#8, 0x1E#8, 0x01#8, 0x11#8, 0xA8#8], decodeTableWord 8 op.toNat = some (.undefined op) := by decide
theorem test_truncated : decode [0xC3#8, 0x10#8] = .error (.truncated 0xC3#8) ∧ decode [0x06#8] = .error (.truncated 0x06#8) ∧
    decode [] = .error .noOpcode := ⟨rfl, rfl, rfl⟩
/-- A table word's bits count from the first byte on, and the bits above the row's are zero. -/
theorem test_table_words :
    decodeTableWord 24 0x1234C3 = some (.jumpNn 0x1234#16) ∧ decodeTableWord 8 0x1234C3 = some (.jumpNn 0x0000#16) ∧
    decodeTableWord 16 0x7F0E = some (.loadCn 0x7F#8) := by decide
/-- R76's map: 11 of the 250 undefined values are illegal, 0xCB is not one. -/
theorem test_illegal_count : illegalOpcodes.length = 11 ∧ (∀ op ∈ illegalOpcodes, op ∉ definedOpcodes) ∧
    isIllegalOpcode 0xCB#8 = false ∧ isIllegalOpcode 0xDD#8 = true := by decide

/-! ### withFetchWord: each row's word is the first instruction after reset -/

theorem test_fetchWord_jump : ((after (State.reset.withFetchWord 24 0x1234C3)).map State.pc) = some 0x1234#16 := by decide
theorem test_fetchWord_loadB : ((after (State.reset.withFetchWord 16 0x8006)).map State.b) = some 0x80#8 := by decide
theorem test_fetchWord_loadHL_short : ((after (State.reset.withFetchWord 8 0x21)).map State.pc) = some 0x0003#16 := by decide

/-! ### One step of each instruction (95_test_vectors.md 2.5 and 2.6) -/

/-- I2: NOP at 0xDFFF. -/
theorem test_nop_I2 : (after (machineAt 0xDFFF#16 [0x00#8])).map (fun t => (t.pc, t.status)) =
    some (0xE000#16, .running) := by decide
/-- I3: XOR A,A clears A and leaves F. -/
theorem test_xor_I3 :
    (after ((machineAt 0x0100#16 [0xAF#8]).setPair .AF 0x5AF0#16)).map (fun t => (t.a, t.f, t.pc)) =
    some (0x00#8, 0xF0#8, 0x0101#16) := by decide
/-- I5: LOAD B,n leaves C. -/
theorem test_loadB_I5 : (after ((machineAt 0xC000#16 [0x06#8, 0x80#8]).setR .C 0x11#8)).map (fun t => (t.b, t.c, t.pc)) =
    some (0x80#8, 0x11#8, 0xC002#16) := by decide
/-- I7: LOAD C,n with its operand in the next window. -/
theorem test_loadC_I7 : (after (machineAt 0x3FFF#16 [0x0E#8, 0x99#8])).map (fun t => (t.c, t.pc)) =
    some (0x99#8, 0x4001#16) := by decide
/-- I10: LOAD HL,nn up to the last mapped byte. -/
theorem test_loadHL_I10 : (after (machineAt 0xDFFD#16 [0x21#8, 0xCD#8, 0xAB#8])).map (fun t => (t.h, t.l, t.pc, t.status)) =
    some (0xAB#8, 0xCD#8, 0xE000#16, .running) := by decide
/-- X7: LOAD HL,nn whose immediate straddles the end of the fixed ROM window. -/
theorem test_loadHL_X7 :
    (after ((machineAt 0x3FFE#16 [0x21#8, 0x34#8, 0x12#8]).setPair .HL 0xAABB#16)).map
      (fun t => (t.status, t.pc, t.getPair .HL)) =
    some (.faulted (.outOfBounds ⟨.rom0, none⟩ 0x4000), 0x3FFF#16, 0xAABB#16) := by decide
/-- I13: JUMP to an unmapped address is legal. -/
theorem test_jump_I13 : (after ((machineAt 0x0000#16 [0xC3#8, 0xFF#8, 0xFF#8]).setSp 0x1234#16)).map
    (fun t => (t.pc, t.sp, t.status)) = some (0xFFFF#16, 0x1234#16, .running) := by decide
/-- X8: JUMP whose immediate straddles the last window's end. -/
theorem test_jump_X8 : (after (machineAt 0xDFFE#16 [0xC3#8, 0x00#8])).map (fun t => (t.status, t.pc)) =
    some (.faulted (.outOfBounds ⟨.wramx, some 0⟩ 0x1000), 0xDFFF#16) := by decide
/-- X5: LOAD B,n with its operand unmapped. -/
theorem test_loadB_X5 : (after ((machineAt 0xDFFF#16 [0x06#8]).setR .B 0x33#8)).map (fun t => (t.status, t.pc, t.b)) =
    some (.faulted (.addressOutOfRange 0xE000#16), 0xE000#16, 0x33#8) := by decide
/-- X2 and X10: an undefined opcode, and the step after it. -/
theorem test_undefined_X2 :
    ((after (machineAt 0x0000#16 [0x76#8])).map (fun t => (t.status, t.pc)) =
      some (.faulted (.unimplementedOpcode 0x76#8 0x0000#16), 0x0001#16)) ∧
    ((after (machineAt 0x0000#16 [0x76#8])).bind after).map (fun t => (t.status, t.pc)) =
      some (.faulted (.unimplementedOpcode 0x76#8 0x0000#16), 0x0001#16) := by decide
/-- X3: an illegal opcode. -/
theorem test_undefined_X3 : (after (machineAt 0x0000#16 [0xDD#8])).map (fun t => (t.status, t.pc)) =
    some (.faulted (.illegalOpcode 0xDD#8 0x0000#16), 0x0001#16) := by decide
/-- X1: the opcode fetch at an unmapped address. -/
theorem test_fetch_X1 : (after (machineAt 0xE000#16 [])).map (fun t => (t.status, t.pc)) =
    some (.faulted (.addressOutOfRange 0xE000#16), 0xE000#16) := by decide

/-! ### Decoder and accesses (95_test_vectors.md 2.2, 2.3, 2.4) -/

theorem test_regions :
    [0x0000#16, 0x3FFF#16, 0x4000#16, 0x7FFF#16, 0x8000#16, 0x9FFF#16, 0xA000#16, 0xBFFF#16, 0xC000#16, 0xCFFF#16, 0xD000#16,
      0xDFFF#16, 0xE000#16, 0xFFFF#16].map (fun a => valueOf (regionOf a)) =
    [some .rom0, some .rom0, some .romx, some .romx, some .vram, some .vram, some .eram, some .eram, some .wram0, some .wram0,
      some .wramx, some .wramx, none, none] := by decide
/-- M5: pages are not aliased. -/
theorem test_pages_M5 :
    (match sevenPages.write8 0xD000#16 1 0x11#8 with
     | .ok s => [valueOf (s.read8 0xD000#16 1), valueOf (s.read8 0xD000#16 0), valueOf (s.read8 0xD000#16 2)]
     | .error _ => []) = [some 0x11#8, some 0x00#8, some 0x00#8] := by decide
/-- M7 and M22: the page check comes before the bank's bound. -/
theorem test_page_faults : faultOf (sevenPages.read8 0xD000#16 7) = some (.pageOutOfRange .wramx 7) ∧
    faultOf (sevenPages.read16 0xDFFF#16 7) = some (.pageOutOfRange .wramx 7) ∧
    faultOf (State.reset.read8 0x4000#16 1) = some (.pageOutOfRange .romx 1) := by decide
/-- M14: a word at an odd address, low byte first. -/
theorem test_word_M14 : valueOf ((machineAt 0x8001#16 [0x34#8, 0x12#8]).read16 0x8001#16 0) = some 0x1234#16 := by decide
/-- M24 and M25: a word write, and one that straddles. -/
theorem test_word_write :
    (match State.reset.write16 0xA000#16 0 0xBEEF#16 with
     | .ok s => [valueOf (s.read8 0xA000#16 0), valueOf (s.read8 0xA001#16 0)]
     | .error _ => []) = [some 0xEF#8, some 0xBE#8] ∧
    faultOf (State.reset.write16 0xBFFF#16 0 0x1234#16) = some (.outOfBounds ⟨.eram, none⟩ 0x2000) := by decide
/-- L2 and the page counts of L1, L3 to L8. -/
theorem test_loader : valueOf ((State.resetImage [0xAB#8]).read8 0x0000#16 0) = some 0xAB#8 ∧
    [0, 0x4000, 0x4001, 0x8000, 0xA000, 0xBFFF, 0x10000].map romPages = [1, 1, 1, 2, 2, 2, 4] ∧
    [0, 0x4000, 0x4001, 0x8000, 0xA000, 0xBFFF, 0x10000].map chunkCount = [0, 1, 2, 2, 3, 3, 4] := by decide
/-- RF3: a pair is written unmasked, F's low bits included. -/
theorem test_pair_RF3 : (State.reset.setPair .AF 0x12FF#16).a = 0x12#8 ∧ (State.reset.setPair .AF 0x12FF#16).f = 0xFF#8 ∧
    (State.reset.setPair .AF 0x12FF#16).getPair .AF = 0x12FF#16 := by decide
/-- Writing 0x00 removes the entry: equal memories are equal data. -/
theorem test_canonical : Memory.write (Memory.write [(3, 0x01#8)] 1 0x05#8) 3 0x00#8 = [(1, 0x05#8)] := by decide

/-! ### Witnesses: for each obligation with hypotheses, a state and operands that meet them -/

theorem witness_DecodeOfEncode : (Instr.jumpNn 0xFFFF#16).wellFormed = true ∧ (Instr.undefined 0xFF#8).wellFormed = true := by
  decide
theorem witness_DecodedBytes : decode [0xC3#8, 0xFF#8, 0xFF#8] = .ok (.jumpNn 0xFFFF#16, []) := rfl
theorem witness_PairsAreTwoRegisters : (Pair.HL, Reg8.H, Reg8.L) ∈
    [(Pair.AF, Reg8.A, Reg8.F), (.BC, .B, .C), (.DE, .D, .E), (.HL, .H, .L)] := by decide
/-- For StackPointerIsOnlyTheHosts, FlagRegisterIsInert, NoRegisterSteersAStep, NoStepWritesMemory. -/
theorem witness_step_answers : ∃ t, step (machineAt 0x0000#16 [0x06#8, 0x80#8]) = .next t := ⟨_, rfl⟩
theorem witness_inert_register : Reg8.F ∈ [Reg8.F, .D, .E] := by decide
theorem witness_ProgramCounterAccess : State.reset.status = .running ∧ 0xE000 ≤ (0xE000#16).toNat := by decide
theorem witness_BankAccess : Bank.wf 0x1000 (Bank.new 0x1000) ∧ 0x0FFF < 0x1000 ∧ 0x1000 ≤ 0x1000 :=
  ⟨Bank.new_wf _, by decide, by decide⟩
theorem witness_PageIndex : (PagedBank.new 7 0x1000).count ≤ 7 ∧ 6 < (PagedBank.new 7 0x1000).count := by decide
theorem witness_AddressDecodeTable : (Region.wramx, 0xD000, 0xDFFF, true) ∈
    [(Region.rom0, 0x0000, 0x3FFF, false), (.romx, 0x4000, 0x7FFF, true), (.vram, 0x8000, 0x9FFF, false),
      (.eram, 0xA000, 0xBFFF, false), (.wram0, 0xC000, 0xCFFF, false), (.wramx, 0xD000, 0xDFFF, true)] ∧
    0xE000 ≤ (0xE000#16).toNat := by decide
theorem witness_ChecksInDataPathOrder :
    (0xE000 ≤ (0xFFFF#16).toNat) ∧ (valueOf (regionOf 0x7FFF#16) = some .romx ∧ sevenPages.romx.count ≤ 1) ∧
    (valueOf (regionOf 0xDFFF#16) = some .wramx ∧ sevenPages.wramx.count ≤ 7) := by decide
/-- For ByteReadOutcomes, ByteWriteChangesOneByte, WordWriteIsAllOrNothing, LoaderNeverFaults, HostKeepsTheInvariant. -/
theorem witness_inv : (machineAt 0x3FFE#16 [0x21#8, 0x34#8, 0x12#8]).Inv := machineAt_inv _ _
theorem witness_byte_read_clauses :
    faultOf (State.reset.read8 0xE000#16 0) = some (.addressOutOfRange 0xE000#16) ∧
    faultOf (State.reset.read8 0x7FFF#16 1) = some (.pageOutOfRange .romx 1) ∧
    faultOf (sevenPages.read8 0xD000#16 7) = some (.pageOutOfRange .wramx 7) ∧
    valueOf (State.reset.read8 0xDFFF#16 0) = some 0x00#8 := by decide
theorem witness_WordRead : (machineAt 0x3FFD#16 [0x34#8, 0x12#8]).Inv ∧ isWindowEnd 0x3FFD#16 = false ∧
    valueOf ((machineAt 0x3FFD#16 [0x34#8, 0x12#8]).read16 0x3FFD#16 0) = some 0x1234#16 ∧
    faultOf ((machineAt 0x3FFD#16 [0x34#8, 0x12#8]).read8 0xE000#16 0) = some (.addressOutOfRange 0xE000#16) :=
  ⟨machineAt_inv _ _, by decide, by decide, by decide⟩
theorem witness_Straddling : (machineAt 0x0000#16 []).Inv ∧ isWindowEnd 0xDFFF#16 = true ∧
    regionOf 0xDFFF#16 = .ok .wramx ∧ (machineAt 0x0000#16 []).selectBank .wramx 0 = .ok (Bank.new 0x1000) :=
  ⟨machineAt_inv _ _, by decide, rfl, rfl⟩
/-- ByteWriteChangesOneByte and WordWriteIsAllOrNothing, each disjunct at the edge of a window, through the host's port. -/
theorem witness_host_writes :
    ((State.reset.perform (.write8 0xDFFF#16 0 0x5A#8)).2 = .done ∧
      valueOf ((State.reset.perform (.write8 0xDFFF#16 0 0x5A#8)).1.read8 0xDFFF#16 0) = some 0x5A#8) ∧
    (State.reset.perform (.write8 0xE000#16 0 0x5A#8)).2 = .fault (.addressOutOfRange 0xE000#16) ∧
    ((State.reset.perform (.write16 0x3FFE#16 0 0xBEEF#16)).2 = .done ∧
      valueOf ((State.reset.perform (.write16 0x3FFE#16 0 0xBEEF#16)).1.read16 0x3FFE#16 0) = some 0xBEEF#16) ∧
    (State.reset.perform (.write16 0x3FFF#16 0 0xBEEF#16)).2 = .fault (.outOfBounds ⟨.rom0, none⟩ 0x4000) ∧
    (State.reset.perform (.write16 0x4000#16 1 0xBEEF#16)).2 = .fault (.pageOutOfRange .romx 1) := by decide
theorem witness_WriteIsSeen : (machineAt 0x0000#16 []).Inv ∧ (0xDFFF#16).toNat < 0xE000 := ⟨machineAt_inv _ _, by decide⟩
theorem witness_PageIsIgnored : regionOf 0x9FFF#16 = .ok .vram ∧ Region.vram ∈ [Region.rom0, .vram, .eram, .wram0] :=
  ⟨rfl, by decide⟩
theorem witness_EqualContents : Memory.wf [(0, 0x01#8), (0x3FFF, 0xFF#8)] := by decide
theorem witness_ResetPlaces : (0x3FFF#16).toNat < 0x4000 ∧ 0x4000 ≤ (0x7FFF#16).toNat ∧ (0x7FFF#16).toNat < 0x8000 ∧
    0 < max 1 (List.length [0xAB#8] / 0x4000) := by decide
theorem witness_ResetClears : 0x8000 ≤ (0xDFFF#16).toNat ∧ (0xDFFF#16).toNat < 0xE000 ∧ 0 < Config.wramPages :=
  ⟨by decide, by decide, by rw [Config.wramPages]; omega⟩
theorem witness_StepRuns : (machineAt 0xDFFD#16 [0x21#8, 0xCD#8, 0xAB#8]).status = .running ∧
    decode [0x21#8, 0xCD#8, 0xAB#8] = .ok (.loadHLnn 0xABCD#16, []) ∧
    (machineAt 0xDFFD#16 [0x21#8, 0xCD#8, 0xAB#8]).CodeAt 0xDFFD#16 [0x21#8, 0xCD#8, 0xAB#8] ∧
    instrLength (.loadHLnn 0xABCD#16) = 3 ∧ isWindowEnd (0xDFFD#16 + 1#16) = false :=
  ⟨by decide, rfl, ⟨ok_of_valueOf (by decide), ok_of_valueOf (by decide), ok_of_valueOf (by decide), trivial⟩, rfl, by decide⟩
theorem witness_OpcodeFetch : (machineAt 0xE000#16 []).Inv ∧ (machineAt 0xE000#16 []).status = .running ∧
    0xE000 ≤ (machineAt 0xE000#16 []).pc.toNat ∧ (machineAt 0xDFFF#16 []).pc.toNat < 0xE000 :=
  ⟨machineAt_inv _ _, by decide, by decide, by decide⟩
theorem witness_Undefined : (machineAt 0xDFFF#16 [0xCB#8]).status = .running ∧
    (machineAt 0xDFFF#16 [0xCB#8]).memRead8 (machineAt 0xDFFF#16 [0xCB#8]).pc = .ok 0xCB#8 ∧
    0xCB#8 ∉ [0x00#8, 0x06#8, 0x0E#8, 0x21#8, 0xAF#8, 0xC3#8] := ⟨by decide, ok_of_valueOf (by decide), by decide⟩
theorem witness_NopStep : (machineAt 0xDFFF#16 [0x00#8]).status = .running ∧
    (machineAt 0xDFFF#16 [0x00#8]).memRead8 0xDFFF#16 = .ok 0x00#8 := ⟨by decide, ok_of_valueOf (by decide)⟩
theorem witness_XorStep : (machineAt 0xDFFF#16 [0xAF#8]).status = .running ∧
    (machineAt 0xDFFF#16 [0xAF#8]).memRead8 0xDFFF#16 = .ok 0xAF#8 := ⟨by decide, ok_of_valueOf (by decide)⟩
/-- JumpStep's three clauses, each at a boundary: complete at 0xDFFD, unmapped at 0xDFFF, straddling at 0xDFFE. -/
theorem witness_JumpStep :
    ((machineAt 0xDFFD#16 [0xC3#8, 0xFF#8, 0xFF#8]).memRead8 0xDFFD#16 = .ok 0xC3#8 ∧
      isWindowEnd (0xDFFD#16 + 1#16) = false ∧
      (machineAt 0xDFFD#16 [0xC3#8, 0xFF#8, 0xFF#8]).memRead8 (0xDFFD#16 + 1#16) = .ok 0xFF#8 ∧
      (machineAt 0xDFFD#16 [0xC3#8, 0xFF#8, 0xFF#8]).memRead8 (0xDFFD#16 + 2#16) = .ok 0xFF#8) ∧
    (machineAt 0xDFFF#16 [0xC3#8]).memRead8 0xDFFF#16 = .ok 0xC3#8 ∧
    ((machineAt 0xDFFE#16 [0xC3#8]).memRead8 0xDFFE#16 = .ok 0xC3#8 ∧ isWindowEnd (0xDFFE#16 + 1#16) = true ∧
      regionOf (0xDFFE#16 + 1#16) = .ok .wramx) := 
  ⟨⟨ok_of_valueOf (by decide), by decide, ok_of_valueOf (by decide), ok_of_valueOf (by decide)⟩,
    ok_of_valueOf (by decide), ok_of_valueOf (by decide), by decide, ok_of_valueOf (by decide)⟩
/-- LoadHLStep's three clauses, each at a boundary. -/
theorem witness_LoadHLStep :
    ((machineAt 0x3FFD#16 [0x21#8, 0x34#8, 0x12#8]).memRead8 0x3FFD#16 = .ok 0x21#8 ∧
      isWindowEnd (0x3FFD#16 + 1#16) = false ∧
      (machineAt 0x3FFD#16 [0x21#8, 0x34#8, 0x12#8]).memRead8 (0x3FFD#16 + 1#16) = .ok 0x34#8 ∧
      (machineAt 0x3FFD#16 [0x21#8, 0x34#8, 0x12#8]).memRead8 (0x3FFD#16 + 2#16) = .ok 0x12#8) ∧
    (machineAt 0xDFFF#16 [0x21#8]).memRead8 0xDFFF#16 = .ok 0x21#8 ∧
    ((machineAt 0x3FFE#16 [0x21#8]).memRead8 0x3FFE#16 = .ok 0x21#8 ∧ isWindowEnd (0x3FFE#16 + 1#16) = true ∧
      regionOf (0x3FFE#16 + 1#16) = .ok .rom0) := 
  ⟨⟨ok_of_valueOf (by decide), by decide, ok_of_valueOf (by decide), ok_of_valueOf (by decide)⟩,
    ok_of_valueOf (by decide), ok_of_valueOf (by decide), by decide, ok_of_valueOf (by decide)⟩
/-- LoadCStep's and LoadBStep's two clauses, each at a boundary: the last operand address, and the first unmapped one. -/
theorem witness_LoadCStep :
    ((machineAt 0xDFFE#16 [0x0E#8, 0x7F#8]).memRead8 0xDFFE#16 = .ok 0x0E#8 ∧
      (machineAt 0xDFFE#16 [0x0E#8, 0x7F#8]).memRead8 (0xDFFE#16 + 1#16) = .ok 0x7F#8) ∧
    (machineAt 0xDFFF#16 [0x0E#8]).memRead8 0xDFFF#16 = .ok 0x0E#8 := 
  ⟨⟨ok_of_valueOf (by decide), ok_of_valueOf (by decide)⟩, ok_of_valueOf (by decide)⟩
theorem witness_LoadBStep :
    ((machineAt 0xDFFE#16 [0x06#8, 0x80#8]).memRead8 0xDFFE#16 = .ok 0x06#8 ∧
      (machineAt 0xDFFE#16 [0x06#8, 0x80#8]).memRead8 (0xDFFE#16 + 1#16) = .ok 0x80#8) ∧
    (machineAt 0xDFFF#16 [0x06#8]).memRead8 0xDFFF#16 = .ok 0x06#8 := 
  ⟨⟨ok_of_valueOf (by decide), ok_of_valueOf (by decide)⟩, ok_of_valueOf (by decide)⟩
/-- InstructionFrame: an exec that answers, for an instruction and for UNDEFINED. -/
theorem witness_InstructionFrame : (∃ t, exec (.loadHLnn 0xFFFF#16) State.reset = .next t) ∧
    (∃ t, exec (.undefined 0xDD#8) State.reset = .next t) ∧ Reg8.A ∉ destinations (.loadHLnn 0xFFFF#16) :=
  ⟨⟨_, rfl⟩, ⟨_, rfl⟩, by decide⟩
theorem witness_OtherPages : Region.wramx.isPaged = true ∧ Region.romx.isPaged = true ∧ 1 ≠ 0 ∧
    ∃ t, step sevenPages = .next t := ⟨rfl, rfl, by decide, _, rfl⟩
/-- For FaultsOfAStep, FaultingStepIsPrecise, NoPageFaultInAStep: a step that faults at each of its three places. -/
theorem witness_faulting_steps :
    ((machineAt 0xE000#16 []).status = .running ∧ ∃ t, step (machineAt 0xE000#16 []) = .next t ∧
      t.status = .faulted (.addressOutOfRange 0xE000#16)) ∧
    (∃ t, step (machineAt 0xDFFF#16 [0xD3#8]) = .next t ∧ t.status = .faulted (.illegalOpcode 0xD3#8 0xDFFF#16)) ∧
    (∃ t, step (machineAt 0xDFFF#16 [0xC3#8]) = .next t ∧ t.status = .faulted (.addressOutOfRange 0xE000#16)) :=
  ⟨⟨by decide, steps_to (by decide)⟩, steps_to (by decide), steps_to (by decide)⟩
theorem witness_FaultedMachine : (State.reset.takeFault (.addressOutOfRange 0xE000#16)).status =
    .faulted (.addressOutOfRange 0xE000#16) := rfl
theorem witness_OnlyReset : (State.reset.perform (.read8 0xE000#16 0)).2 = .fault (.addressOutOfRange 0xE000#16) ∧
    (∀ image, Transaction.getStatus ≠ .reset image) ∧
    ∃ t, step (State.reset.takeFault (.addressOutOfRange 0xE000#16)) = .next t :=
  ⟨rfl, (fun _ h => by cases h), _, rfl⟩
theorem witness_StepKeepsTheInvariant : (machineAt 0x0000#16 [0xC3#8]).Inv ∧
    ∃ t, step (machineAt 0x0000#16 [0xC3#8]) = .next t := ⟨machineAt_inv _ _, _, rfl⟩
theorem witness_Reachable : (State.resetImage [0x06#8, 0x55#8]).Reachable ∧ (0xDFFF#16).toNat < 0xE000 :=
  ⟨.reset _, by decide⟩
/-- ProgramCounterNeverWraps at its three lengths, ending at 0xE000. -/
theorem witness_ProgramCounterNeverWraps :
    (∃ t, step (machineAt 0xDFFF#16 [0x00#8]) = .next t ∧ t.status = .running ∧ t.pc = 0xE000#16) ∧
    (∃ t, step (machineAt 0xDFFE#16 [0x06#8]) = .next t ∧ t.status = .running ∧ t.pc = 0xE000#16) ∧
    (∃ t, step (machineAt 0xDFFD#16 [0x21#8]) = .next t ∧ t.status = .running ∧ t.pc = 0xE000#16) :=
  ⟨steps_to (by decide), steps_to (by decide), steps_to (by decide)⟩
theorem witness_ZeroBytes : (machineAt 0xDFFE#16 []).status = .running ∧
    (machineAt 0xDFFE#16 []).CodeAt 0xDFFE#16 (List.replicate 2 0x00#8) := 
  ⟨by decide, ok_of_valueOf (by decide), ok_of_valueOf (by decide), trivial⟩
theorem witness_SelfJump : (machineAt 0xC000#16 [0xC3#8, 0x00#8, 0xC0#8]).status = .running ∧
    isWindowEnd (0xC000#16 + 1#16) = false ∧
    (machineAt 0xC000#16 [0xC3#8, 0x00#8, 0xC0#8]).CodeAt 0xC000#16 [0xC3#8, 0x00#8, 0xC0#8] ∧ 0xC0#8 ++ 0x00#8 = 0xC000#16 :=
  ⟨by decide, by decide, ⟨ok_of_valueOf (by decide), ok_of_valueOf (by decide), ok_of_valueOf (by decide), trivial⟩, by decide⟩

end Sys2Proof.Tests
end

section
/-! The register file (10_state.md): the bytes of a word as numbers, the views of the registers through the host's port, and
updates of the state that a step neither reads nor undoes. -/

namespace Sys2Proof.Machine

/-! ### The bytes of a word as numbers -/

theorem highByte_toNat (v : Word) : (highByte v).toNat = v.toNat / 256 := by
  have := v.isLt
  simp only [highByte, BitVec.extractLsb'_toNat, Nat.shiftRight_eq_div_pow]
  omega

theorem lowByte_toNat (v : Word) : (lowByte v).toNat = v.toNat % 256 := by
  simp [lowByte]

theorem wordOf_toNat (hi lo : Byte) : (wordOf hi lo).toNat = hi.toNat * 256 + lo.toNat := by
  have hhigh := highByte_toNat (wordOf hi lo)
  have hlow := lowByte_toNat (wordOf hi lo)
  rw [highByte_wordOf] at hhigh
  rw [lowByte_wordOf] at hlow
  omega

/-! ### Register accesses through the host's port -/

section Port

variable (s : State)

@[simp] theorem State.perform_getR (n : Reg8) : s.perform (.getR n) = (s, .byte (s.getR n)) := rfl
@[simp] theorem State.perform_setR (n : Reg8) (v : Byte) : s.perform (.setR n v) = (s.setR n v, .done) := rfl
@[simp] theorem State.perform_getPair (p : Pair) : s.perform (.getPair p) = (s, .word (s.getPair p)) := rfl
@[simp] theorem State.perform_setPair (p : Pair) (v : Word) : s.perform (.setPair p v) = (s.setPair p v, .done) := rfl
@[simp] theorem State.perform_getSp : s.perform .getSp = (s, .word s.sp) := rfl
@[simp] theorem State.perform_setSp (v : Word) : s.perform (.setSp v) = (s.setSp v, .done) := rfl
@[simp] theorem State.perform_getPc : s.perform .getPc = (s, .word s.pc) := rfl
@[simp] theorem State.perform_setPc (v : Word) : s.perform (.setPc v) = (s.setPc v, .done) := rfl

end Port

/-! ### What a register write leaves alone, and what a pair is made of -/

theorem State.setR_sameMemory (s : State) (n : Reg8) (v : Byte) : s.SameMemory (s.setR n v) := by
  simp [State.SameMemory]

theorem State.setPair_sameMemory (s : State) (p : Pair) (v : Word) : s.SameMemory (s.setPair p v) := by
  simp [State.SameMemory]

theorem State.setSp_sameMemory (s : State) (v : Word) : s.SameMemory (s.setSp v) := by
  simp [State.SameMemory]

theorem Pair.hi_ne_lo (p : Pair) : p.hi ≠ p.lo := by cases p <;> decide

/-- Reading a register after writing a pair: its two registers take the two bytes, the others stay (R18, R20). -/
theorem State.getR_setPair (s : State) (p : Pair) (v : Word) (m : Reg8) :
    (s.setPair p v).getR m = if m = p.lo then lowByte v else if m = p.hi then highByte v else s.getR m := by
  simp only [State.setPair, State.getR_setR]

theorem State.getPair_toNat (s : State) (p : Pair) :
    (s.getPair p).toNat = (s.getR p.hi).toNat * 256 + (s.getR p.lo).toNat :=
  wordOf_toNat _ _

/-- The spec's table of the pairs (R18) is the model's `Pair.hi` and `Pair.lo`. -/
theorem Pair.mem_table_iff (p : Pair) (hi lo : Reg8) :
    (p, hi, lo) ∈ [(Pair.AF, Reg8.A, Reg8.F), (.BC, .B, .C), (.DE, .D, .E), (.HL, .H, .L)] ↔
      hi = p.hi ∧ lo = p.lo := by
  cases p <;> simp [Pair.hi, Pair.lo]

/-! ### What a step answers, by where it ends

The four cases of `step_cases` in the other direction. -/

section StepRules

variable {s : State} {op : Byte} {f : Fault} {i : Instr}

theorem step_of_faulted (hst : s.status = .faulted f) : step s = .next s := by
  simp only [step, hst]

theorem step_of_opcode_fault (hst : s.status = .running) (hop : s.memRead8 s.pc = .error f) :
    step s = .next (s.takeFault f) := by
  simp only [step, hst, State.fetch, hop]

theorem step_of_operand_fault (hst : s.status = .running) (hop : s.memRead8 s.pc = .ok op)
    (harg : (s.advancePc 1).fetchOperand (decodeOpcode op) = .error f) :
    step s = .next ((s.advancePc 1).takeFault f) := by
  simp only [step, hst, State.fetch, hop, harg]

theorem step_of_fetched (hst : s.status = .running) (hop : s.memRead8 s.pc = .ok op)
    (harg : (s.advancePc 1).fetchOperand (decodeOpcode op) = .ok i) :
    step s = .next (execResult i (s.advancePc 1)) := by
  simp only [step, hst, State.fetch, hop, harg, exec_eq]

end StepRules

/-- The operand that is fetched depends on the storage and PC only (R85). -/
theorem State.fetchOperand_congr {s t : State} (hmem : s.SameMemory t) (hpc : t.pc = s.pc) (fmt : Format) :
    t.fetchOperand fmt = s.fetchOperand fmt := by
  cases fmt with
  | op i => rfl
  | opN8 g =>
    simp only [State.fetchOperand, State.operand8, State.memRead8, hpc, State.read8_congr hmem]
  | opN16 g =>
    simp only [State.fetchOperand, State.operand16, State.memRead16, hpc, State.read16_congr hmem]

/-! ### Updates that a step carries along -/

/-- An update of the state that no part of a step sees or undoes: it leaves storage, PC and the latch alone, and commutes
with what a step does to a state. -/
structure InertUpdate (g : State → State) : Prop where
  sameMemory : ∀ s : State, s.SameMemory (g s)
  pc : ∀ s, (g s).pc = s.pc
  status : ∀ s, (g s).status = s.status
  takeFault : ∀ s f, (g s).takeFault f = g (s.takeFault f)
  advancePc : ∀ s k, (g s).advancePc k = g (s.advancePc k)
  execResult : ∀ i s, Machine.execResult i (g s) = g (Machine.execResult i s)

namespace InertUpdate

variable {g : State → State} (hg : InertUpdate g)
include hg

/-- The opcode that is fetched is the same before and after the update. -/
theorem memRead8_pc (s : State) : (g s).memRead8 (g s).pc = s.memRead8 s.pc := by
  simp only [State.memRead8, hg.pc, State.read8_congr (hg.sameMemory s)]

theorem fetchOperand_advancePc (s : State) (fmt : Format) :
    ((g s).advancePc 1).fetchOperand fmt = (s.advancePc 1).fetchOperand fmt := by
  rw [hg.advancePc]
  exact State.fetchOperand_congr (hg.sameMemory _) (hg.pc _) fmt

/-- A step from the updated state ends in the updated next state. -/
theorem step_next {s t : State} (h : step s = .next t) : step (g s) = .next (g t) := by
  have hread := hg.memRead8_pc s
  rcases step_cases s with ⟨f, hst, hstep⟩ | ⟨hst, hcase⟩
  · cases hstep.symm.trans h
    exact step_of_faulted ((hg.status s).trans hst)
  have hst' : (g s).status = .running := (hg.status s).trans hst
  rcases hcase with ⟨f, hop, hstep⟩ | ⟨op, f, hop, harg, hstep⟩ | ⟨op, i, hop, harg, hstep⟩
  · cases hstep.symm.trans h
    rw [step_of_opcode_fault hst' (hread.trans hop), hg.takeFault]
  · cases hstep.symm.trans h
    rw [step_of_operand_fault hst' (hread.trans hop) ((hg.fetchOperand_advancePc s _).trans harg), hg.advancePc, hg.takeFault]
  · cases hstep.symm.trans h
    rw [step_of_fetched hst' (hread.trans hop) ((hg.fetchOperand_advancePc s _).trans harg), hg.advancePc, hg.execResult]

end InertUpdate

/-- No meaning reads or writes SP (R16, R22). -/
theorem inertUpdate_setSp (v : Word) : InertUpdate (fun s => s.setSp v) where
  sameMemory s := s.setSp_sameMemory v
  pc _ := rfl
  status _ := rfl
  takeFault _ _ := rfl
  advancePc _ _ := rfl
  execResult i _ := by cases i <;> rfl

/-- No step writes SP (R22). -/
theorem step_sp {s t : State} (h : step s = .next t) : t.sp = s.sp := by
  rcases step_cases s with ⟨_, -, h'⟩ | ⟨-, ⟨_, -, h'⟩ | ⟨_, _, -, -, h'⟩ | ⟨_, i, -, -, h'⟩⟩
  · cases h'.symm.trans h
    rfl
  · cases h'.symm.trans h
    exact s.takeFault_sp _
  · cases h'.symm.trans h
    rw [State.takeFault_sp, State.advancePc_sp]
  · cases h'.symm.trans h
    obtain ⟨-, hsp, -⟩ := execResult_frame i (s.advancePc 1)
    exact hsp

/-- A running machine whose PC is unmapped takes AddressOutOfRange of it in its next step (R24, R82). -/
theorem step_of_unmapped_pc {s : State} (hst : s.status = .running) (hpc : 0xE000 ≤ s.pc.toNat) :
    step s = .next (s.takeFault (.addressOutOfRange s.pc)) :=
  step_of_opcode_fault hst (s.read8_unmapped hpc Config.activePage)

/-! ### The obligations -/

/-- Settles O6: a pair's word and bytes as numbers, over the two registers that the table names. -/
theorem pairsAreTwoRegisters : Obligations.PairsAreTwoRegisters := by
  intro s p v hi lo hmem
  obtain ⟨rfl, rfl⟩ := (p.mem_table_iff hi lo).mp hmem
  refine ⟨⟨s.getPair p, s.perform_getPair p, s.getPair_toNat p⟩, s.setPair p v, s.perform_setPair p v, ?_, ?_, ?_,
    s.setPair_sp p v, s.setPair_pc p v, s.setPair_status p v, s.setPair_sameMemory p v⟩
  · rw [s.getR_setPair, if_neg p.hi_ne_lo, if_pos rfl, highByte_toNat]
  · rw [s.getR_setPair, if_pos rfl, lowByte_toNat]
  · intro m hhi hlo
    rw [s.getR_setPair, if_neg hlo, if_neg hhi]

/-- Settles O8: writing SP is an inert update, and no step writes SP. -/
theorem stackPointerIsOnlyTheHosts : Obligations.StackPointerIsOnlyTheHosts := by
  intro s v
  exact ⟨s.perform_getSp, s.perform_setSp v, fun t h => ⟨step_sp h, (inertUpdate_setSp v).step_next h⟩⟩

/-- Settles O5, by the read-after-write law of the eight registers. -/
theorem registersAreIndependent : Obligations.RegistersAreIndependent := by
  intro s n v
  exact ⟨s.perform_getR n, s.setR n v, s.perform_setR n v, fun m => s.getR_setR m n v,
    s.setR_sp n v, s.setR_pc n v, s.setR_status n v, s.setR_sameMemory n v⟩

/-- Settles O9: the opcode fetch at an unmapped PC faults. -/
theorem programCounterAccess : Obligations.ProgramCounterAccess := by
  intro s v
  refine ⟨s.perform_getPc, s.perform_setPc v, fun hst hv => ?_⟩
  have hst' : (s.setPc v).status = .running := hst
  exact step_of_unmapped_pc hst' hv

end Sys2Proof.Machine
end

section
/-! Memory (20_memory.md): one Bank access, the address decode table, and byte and word reads of a routed address. -/

namespace Sys2Proof.Machine

/-! ### One Bank -/

/-- A write below the capacity: the byte written is read back, and every other offset reads as before, a fault included
(R37, R38). -/
theorem Bank.read_write_of_lt {n : Nat} {b : Bank} {id : BankId} {off : Nat} (hb : Bank.wf n b) (hoff : off < n)
    (v : Byte) :
    ∃ b', b.write id off v = .ok b' ∧ b'.read id off = .ok v ∧ b'.capacity = b.capacity ∧
      ∀ off', off' ≠ off → b'.read id off' = b.read id off' := by
  obtain ⟨rfl, hcells, -⟩ := hb
  refine ⟨_, Bank.write_of_lt hoff, ?_, rfl, fun off' hne => ?_⟩
  · rw [Bank.read_of_lt, Memory.read_write_same hcells]
    exact hoff
  · simp only [Bank.read, Memory.read_write_ne _ _ hne]

/-! ### The address decode table -/

/-- The spec's table (R42) is the model's `Region.base`, `Region.capacity` and `Region.isPaged`. -/
theorem Region.mem_table_iff (r : Region) (lo hi : Nat) (paged : Bool) :
    (r, lo, hi, paged) ∈ [(Region.rom0, 0x0000, 0x3FFF, false), (.romx, 0x4000, 0x7FFF, true),
      (.vram, 0x8000, 0x9FFF, false), (.eram, 0xA000, 0xBFFF, false), (.wram0, 0xC000, 0xCFFF, false),
      (.wramx, 0xD000, 0xDFFF, true)] ↔
      lo = r.base ∧ hi + 1 = r.base + r.capacity ∧ paged = r.isPaged := by
  cases r <;>
    simp [Region.base, Region.capacity, Region.isPaged, Config.romBankSize, Config.vramSize, Config.eramSize,
      Config.wramBankSize]

/-- Only addresses below 0xE000 are mapped (R43), so the address after a mapped one does not wrap. -/
theorem toNat_lt_of_regionOf_ok {addr : Word} {r : Region} (h : regionOf addr = .ok r) : addr.toNat < 0xE000 := by
  rcases regionOf_cases addr with ⟨_, hlt, -⟩ | ⟨-, herr⟩
  · exact hlt
  · rw [herr] at h; cases h

theorem toNat_succ_of_regionOf_ok {addr : Word} {r : Region} (h : regionOf addr = .ok r) :
    (addr + 1#16).toNat = addr.toNat + 1 := by
  have := toNat_lt_of_regionOf_ok h
  rw [BitVec.toNat_add_of_lt (by simp; omega)]
  rfl

/-! ### The router at the next address -/

theorem State.resolve_of_ok {s : State} {addr : Word} {page : Nat} {r : Region} {b : Bank} (hr : regionOf addr = .ok r)
    (hb : s.selectBank r page = .ok b) :
    s.resolve addr page = .ok { region := r, page := page, bank := b, off := addr.toNat - r.base } := by
  simp only [State.resolve, hr, hb]

section Routed

variable {s : State} {addr : Word} {page : Nat} {t : Target} (ht : s.resolve addr page = .ok t)
include ht

/-- Off the window's end there is one more byte in the window (R50). -/
theorem Target.off_succ_lt_of_resolve (hend : isWindowEnd addr = false) : t.off + 1 < t.region.capacity := by
  obtain ⟨hr, -, -, hoff, hlt⟩ := State.resolve_ok ht
  have hne : t.off + 1 ≠ t.region.capacity := by
    rw [hoff, ne_eq, ← isWindowEnd_iff hr, hend]
    exact Bool.false_ne_true
  omega

/-- Off the window's end the next address is routed to the next offset of the same Bank (R44, R49). -/
theorem State.resolve_succ (hend : isWindowEnd addr = false) :
    s.resolve (addr + 1#16) page = .ok { t with off := t.off + 1 } := by
  have hnext := Target.off_succ_lt_of_resolve ht hend
  obtain ⟨hr, hbank, hpage, hoff, -⟩ := State.resolve_ok ht
  obtain ⟨hbase, -⟩ := regionOf_ok_iff.mp hr
  have hsucc := toNat_succ_of_regionOf_ok hr
  have hr' : regionOf (addr + 1#16) = .ok t.region := regionOf_ok_iff.mpr (by omega)
  have hoff' : (addr + 1#16).toNat - t.region.base = t.off + 1 := by omega
  rw [State.resolve_of_ok hr' hbank, hoff', ← hpage]

/-! ### Reads of a routed address -/

/-- A routed byte read never faults (R47). -/
theorem State.read8_of_resolve (hs : s.Inv) : s.read8 addr page = .ok (Memory.read t.bank.cells t.off) := by
  obtain ⟨-, hbank, -, -, hlt⟩ := State.resolve_ok ht
  obtain ⟨hcap, -⟩ := State.selectBank_wf hs hbank
  simp only [State.read8, ht, Bank.read_of_lt (hcap ▸ hlt)]

/-- A routed word read off the window's end gives the two bytes at the offset and after it, low byte first (R49). -/
theorem State.read16_of_resolve (hs : s.Inv) (hend : isWindowEnd addr = false) :
    s.read16 addr page =
      .ok (wordOf (Memory.read t.bank.cells (t.off + 1)) (Memory.read t.bank.cells t.off)) := by
  have hnext := Target.off_succ_lt_of_resolve ht hend
  obtain ⟨-, hbank, -, -, hlt⟩ := State.resolve_ok ht
  obtain ⟨hcap, -⟩ := State.selectBank_wf hs hbank
  simp only [State.read16, ht, Bank.read_of_lt (hcap ▸ hlt), Bank.read_of_lt (hcap ▸ hnext)]

end Routed

theorem State.read8_of_resolve_error {s : State} {addr : Word} {page : Nat} {f : Fault}
    (h : s.resolve addr page = .error f) : s.read8 addr page = .error f := by
  simp only [State.read8, h]

theorem State.read16_of_resolve_error {s : State} {addr : Word} {page : Nat} {f : Fault}
    (h : s.resolve addr page = .error f) : s.read16 addr page = .error f := by
  simp only [State.read16, h]

/-- A word read fails first where its low byte's read fails (R49). -/
theorem State.read16_of_read8_error {s : State} {addr : Word} {page : Nat} {f : Fault}
    (h : s.read8 addr page = .error f) : s.read16 addr page = .error f := by
  cases ht : s.resolve addr page with
  | error g =>
    cases (State.read8_of_resolve_error ht).symm.trans h
    exact State.read16_of_resolve_error ht
  | ok t =>
    simp only [State.read8, ht] at h
    simp only [State.read16, ht, h]

/-- The bytes of a word are its own (R12). -/
theorem wordOf_inj {hi lo hi' lo' : Byte} : wordOf hi lo = wordOf hi' lo' ↔ hi = hi' ∧ lo = lo' := by
  refine ⟨fun h => ⟨?_, ?_⟩, fun ⟨hhi, hlo⟩ => by rw [hhi, hlo]⟩
  · simpa using congrArg highByte h
  · simpa using congrArg lowByte h

/-- Off the window's end a word read answers exactly the two byte reads (R49). -/
theorem State.read16_eq_ok_iff {s : State} {addr : Word} {page : Nat} (hs : s.Inv) (hend : isWindowEnd addr = false)
    (hi lo : Byte) :
    s.read16 addr page = .ok (wordOf hi lo) ↔ s.read8 addr page = .ok lo ∧ s.read8 (addr + 1#16) page = .ok hi := by
  cases ht : s.resolve addr page with
  | error f => simp [State.read16_of_resolve_error ht, State.read8_of_resolve_error ht]
  | ok t =>
    rw [State.read16_of_resolve ht hs hend, State.read8_of_resolve ht hs,
      State.read8_of_resolve (State.resolve_succ ht hend) hs]
    simp only [Except.ok.injEq, wordOf_inj]
    exact and_comm

/-! ### The obligations -/

/-- Settles O12, by the outcomes of a Bank access on each side of the capacity. -/
theorem bankAccessIsBounded : Obligations.BankAccessIsBounded := by
  intro n b id off v hb
  have hcap : b.capacity = n := hb.1
  refine ⟨fun hle => ?_, fun hlt => ?_⟩
  · rw [← hcap] at hle
    exact ⟨Bank.read_of_le hle, Bank.write_of_le hle⟩
  · exact ⟨Bank.read_of_lt (hcap ▸ hlt), Bank.read_write_of_lt hb hlt v, Bank.read_of_lt hlt⟩

/-- Settles O13: page selection is a lookup below the page count, and replacing one page leaves the others. -/
theorem pageIndexIsNeverClamped : Obligations.PageIndexIsNeverClamped := by
  intro r pb i
  rcases PagedBank.page_cases r pb i with ⟨b, hlt, hget, hpage⟩ | ⟨hle, hpage⟩
  · refine ⟨fun hle => absurd hlt (by omega), fun _ => ⟨⟨b, hget, hpage⟩, fun b' => ?_⟩⟩
    exact ⟨PagedBank.page_setPage_same b' hlt, fun j hj => PagedBank.page_setPage_ne b' hj.symm⟩
  · exact ⟨fun _ => hpage, fun hlt => absurd hlt (by omega)⟩

/-- Settles O14: the table's row is the window that the decoder answers for. -/
theorem addressDecodeTable : Obligations.AddressDecodeTable := by
  intro addr r lo hi paged hrow
  obtain ⟨rfl, hhi, rfl⟩ := (r.mem_table_iff lo hi paged).mp hrow
  refine ⟨?_, regionOf_unmapped, rfl, by omega, rfl⟩
  rw [regionOf_ok_iff]
  omega

/-- Settles O19: the next address is routed to the next offset of the same Bank. -/
theorem wordReadIsLittleEndian : Obligations.WordReadIsLittleEndian := by
  intro s addr page hs
  exact ⟨fun lo hi hend => State.read16_eq_ok_iff hs hend hi lo, fun f => State.read16_of_read8_error⟩

end Sys2Proof.Machine
end

section
/-! Encoding (30_encoding.md): what the decoder answers for each format that an opcode byte can select. -/

namespace Sys2Proof.Machine

/-! ### The decoder, by the format that the opcode byte selects (R68) -/

section Formats

variable {op : Byte}

theorem decode_of_op {i : Instr} (h : decodeOpcode op = .op i) (rest : List Byte) :
    decode (op :: rest) = .ok (i, rest) := by
  simp only [decode, h]

theorem decode_of_opN8 {g : Byte → Instr} (h : decodeOpcode op = .opN8 g) (n : Byte) (rest : List Byte) :
    decode (op :: n :: rest) = .ok (g n, rest) := by
  simp only [decode, h]

theorem decode_of_opN16 {g : Word → Instr} (h : decodeOpcode op = .opN16 g) (lo hi : Byte) (rest : List Byte) :
    decode (op :: lo :: hi :: rest) = .ok (g (wordOf hi lo), rest) := by
  simp only [decode, h]

end Formats

/-! ### The obligations -/

/-- Settles O3: each row of the opcode map selects one format, and the format says which bytes are consumed. -/
theorem opcodeMapIsTotal : Obligations.OpcodeMapIsTotal := by
  intro op b1 b2
  rcases decodeOpcode_cases op with
    ⟨rfl, h⟩ | ⟨rfl, h⟩ | ⟨rfl, h⟩ | ⟨rfl, h⟩ | ⟨rfl, h⟩ | ⟨rfl, h⟩ | ⟨hop, h⟩
  · exact decode_of_op h [b1, b2]
  · exact decode_of_opN16 h b1 b2 []
  · exact decode_of_op h [b1, b2]
  · exact decode_of_opN16 h b1 b2 []
  · exact decode_of_opN8 h b1 [b2]
  · exact decode_of_opN8 h b1 [b2]
  · simp only [definedOpcodes, List.mem_cons, List.not_mem_nil, or_false, not_or] at hop
    simp only [decode_of_op h, hop, if_false]

end Sys2Proof.Machine
end

section
/-! Fetch and dispatch (40_fetch_dispatch.md): the opcode's own fetch, on each side of the last mapped address. -/

namespace Sys2Proof.Machine

/-! ### The obligations -/

/-- Settles O32: from 0xE000 on the opcode's read takes the decoder's fault, and below it page 0 of the region exists in a
well-shaped state, so the read answers. -/
theorem opcodeFetch : Obligations.OpcodeFetch := by
  intro s hs hst
  refine ⟨fun hunmapped => ?_, fun hmapped => ?_⟩
  · exact step_of_unmapped_pc hst hunmapped
  · exact State.memRead8_mapped hs hmapped

end Sys2Proof.Machine
end

section
/-! Control (41_control.md): a step by the format that its opcode byte selects, and the word operand's faults. -/

namespace Sys2Proof.Machine

/-! ### A word read at the window's end -/

/-- The word at a window's last address is rejected by its Bank's bound, at the offset that is the capacity (R50, D5). -/
theorem State.read16_of_resolve_windowEnd {s : State} {addr : Word} {page : Nat} {t : Target} (hs : s.Inv)
    (ht : s.resolve addr page = .ok t) (hend : isWindowEnd addr = true) :
    s.read16 addr page = .error (.outOfBounds t.id t.region.capacity) := by
  obtain ⟨hr, hbank, -, hoff, hlt⟩ := State.resolve_ok ht
  obtain ⟨hcap, -⟩ := State.selectBank_wf hs hbank
  have hnext : t.off + 1 = t.region.capacity := by rw [hoff, (isWindowEnd_iff hr).mp hend]
  simp only [State.read16, ht, Bank.read_of_lt (hcap ▸ hlt), hnext, Bank.read_of_le hcap.le]

/-- The same for the core, whose page 0 exists in every region (R55). -/
theorem State.memRead16_windowEnd {s : State} {addr : Word} {r : Region} (hs : s.Inv) (hend : isWindowEnd addr = true)
    (hr : regionOf addr = .ok r) : s.memRead16 addr = .error (.outOfBounds (r.bankId 0) r.capacity) := by
  obtain ⟨b, hb⟩ := State.selectBank_zero hs r
  exact State.read16_of_resolve_windowEnd hs (State.resolve_of_ok hr hb) hend

/-! ### A step, by the format that the opcode byte selects (R68, R85) -/

section Formats

variable {s : State} {op : Byte} (hst : s.status = .running) (hop : s.memRead8 s.pc = .ok op)
include hst hop

/-- An instruction without operand runs with PC one on. -/
theorem step_of_op {i : Instr} (hfmt : decodeOpcode op = .op i) : step s = .next (execResult i (s.advancePc 1)) :=
  step_of_fetched hst hop (by rw [hfmt, State.fetchOperand])

variable {g : Word → Instr} (hfmt : decodeOpcode op = .opN16 g)
include hfmt

theorem step_of_opN16_ok {nn : Word} (harg : s.memRead16 (s.pc + 1#16) = .ok nn) :
    step s = .next (execResult (g nn) (s.advancePc 1)) := by
  refine step_of_fetched hst hop ?_
  have harg' : (s.advancePc 1).operand16 = .ok nn := harg
  simp only [hfmt, State.fetchOperand, harg']

theorem step_of_opN16_fault {f : Fault} (harg : s.memRead16 (s.pc + 1#16) = .error f) :
    step s = .next ((s.advancePc 1).takeFault f) := by
  refine step_of_operand_fault hst hop ?_
  have harg' : (s.advancePc 1).operand16 = .error f := harg
  simp only [hfmt, State.fetchOperand, harg']

/-- Off the window's end the operand is the two bytes after the opcode, low byte first (R71). -/
theorem step_of_opN16_bytes (hs : s.Inv) {lo hi : Byte} (hend : isWindowEnd (s.pc + 1#16) = false)
    (hlo : s.memRead8 (s.pc + 1#16) = .ok lo) (hhi : s.memRead8 (s.pc + 2#16) = .ok hi) :
    step s = .next (execResult (g (wordOf hi lo)) (s.advancePc 1)) := by
  have hnext : s.pc + 1#16 + 1#16 = s.pc + 2#16 := BitVec.add_assoc ..
  exact step_of_opN16_ok hst hop hfmt ((State.read16_eq_ok_iff hs hend hi lo).mpr ⟨hlo, hnext ▸ hhi⟩)

/-- With the opcode at the last mapped address the operand is unmapped (R102). -/
theorem step_of_opN16_unmapped (hpc : s.pc = 0xDFFF#16) :
    step s = .next ((s.advancePc 1).takeFault (.addressOutOfRange 0xE000#16)) := by
  refine step_of_opN16_fault hst hop hfmt ?_
  rw [hpc]
  exact s.read16_unmapped (by decide) Config.activePage

end Formats

/-! ### The obligations -/

/-- Settles O34: NOP takes no operand and its meaning leaves the state that the fetch hands over. -/
theorem nopStep : Obligations.NopStep := by
  refine ⟨rfl, fun s hst => ⟨fun hunmapped => ?_, fun hop => ?_⟩⟩
  · exact step_of_unmapped_pc hst hunmapped
  · exact step_of_op hst hop decodeOpcode_nop

/-- Settles O35: PC is the operand, by the three outcomes of the operand's word read. -/
theorem jumpStep : Obligations.JumpStep := by
  refine ⟨fun lo hi => ?_, fun s hs hst => ⟨fun hunmapped => ?_, fun hop => ⟨?_, ?_, ?_⟩⟩⟩
  · change [0xC3#8, lowByte (wordOf hi lo), highByte (wordOf hi lo)] = _
    rw [lowByte_wordOf, highByte_wordOf]
  · exact step_of_unmapped_pc hst hunmapped
  · intro lo hi hend hlo hhi
    exact step_of_opN16_bytes hst hop decodeOpcode_jump hs hend hlo hhi
  · intro hpc
    rw [step_of_opN16_unmapped hst hop decodeOpcode_jump hpc, State.advancePc, hpc]
    rfl
  · intro r hend hr
    exact step_of_opN16_fault hst hop decodeOpcode_jump (State.memRead16_windowEnd hs hend hr)

end Sys2Proof.Machine
end

section
/-! Arithmetic and logic (42_alu.md): the meaning of XOR A,A as one register write. -/

namespace Sys2Proof.Machine

/-- A byte exclusive-or itself is 0x00, and F, which XOR rewrites with its own value, stays (R92, R93). -/
theorem State.writeXor_self (s : State) (v : Byte) : s.writeXor (v ^^^ v) = { s with a := 0x00#8 } := by
  rw [BitVec.xor_self]
  rfl

/-! ### The obligations -/

/-- Settles O36: XOR A,A takes no operand, and its meaning clears A in the state that the fetch hands over. -/
theorem xorStep : Obligations.XorStep := by
  refine ⟨rfl, fun s hst => ⟨fun hunmapped => ?_, fun hop => ?_⟩⟩
  · exact step_of_unmapped_pc hst hunmapped
  · have hxor : execResult .xorAA (s.advancePc 1) = { s.advancePc 1 with a := 0x00#8 } :=
      (s.advancePc 1).writeXor_self _
    rw [step_of_op hst hop decodeOpcode_xor, hxor]
    rfl

end Sys2Proof.Machine
end

section
/-! Immediate loads (43_load_immediate.md): a step of the byte operand's format, and PC over a whole load. -/

namespace Sys2Proof.Machine

/-! ### PC over a whole load

A load starts one past its opcode and moves PC past its operand, so the step moves PC by the instruction's length. -/

section Pc

variable (s : State)

theorem State.advancePc_add (j k : Nat) : (s.advancePc j).advancePc k = s.advancePc (j + k) := by
  simp only [State.advancePc, State.setPc, BitVec.ofNat_add, BitVec.add_assoc]

theorem State.setR_advancePc (n : Reg8) (v : Byte) (k : Nat) :
    (s.advancePc k).setR n v = (s.setR n v).advancePc k := by
  cases n <;> rfl

theorem State.setPair_advancePc (p : Pair) (v : Word) (k : Nat) :
    (s.advancePc k).setPair p v = (s.setPair p v).advancePc k := by
  simp only [State.setPair, State.setR_advancePc]

/-- HL gets the operand's two bytes, high byte in H (R20). -/
theorem State.setPair_HL_wordOf (hi lo : Byte) : s.setPair .HL (wordOf hi lo) = { s with h := hi, l := lo } := by
  rw [State.setPair, highByte_wordOf, lowByte_wordOf]
  rfl

/-- R95's whole-step effect, from PC at the opcode. -/
theorem execResult_loadHL_advancePc (hi lo : Byte) :
    execResult (.loadHLnn (wordOf hi lo)) (s.advancePc 1) = { s with h := hi, l := lo, pc := s.pc + 3#16 } :=
  calc execResult (.loadHLnn (wordOf hi lo)) (s.advancePc 1)
    _ = ((s.advancePc 1).setPair .HL (wordOf hi lo)).advancePc 2 := rfl
    _ = (s.setPair .HL (wordOf hi lo)).advancePc 3 := by rw [State.setPair_advancePc, State.advancePc_add]
    _ = { s with h := hi, l := lo, pc := s.pc + 3#16 } := by rw [State.setPair_HL_wordOf]; rfl

/-- The fault of an unmapped operand is taken with PC at the first unmapped address (R102, R112). -/
theorem State.takeFault_advancePc_of_last (hpc : s.pc = 0xDFFF#16) (f : Fault) :
    (s.advancePc 1).takeFault f = { s with pc := 0xE000#16, status := .faulted f } := by
  rw [State.advancePc, hpc]
  rfl

end Pc

/-! ### A step of the byte operand's format (R68, R85) -/

section ByteOperand

variable {s : State} {op : Byte} (hst : s.status = .running) (hop : s.memRead8 s.pc = .ok op)
variable {g : Byte → Instr} (hfmt : decodeOpcode op = .opN8 g)
include hst hop hfmt

theorem step_of_opN8_ok {n : Byte} (harg : s.memRead8 (s.pc + 1#16) = .ok n) :
    step s = .next (execResult (g n) (s.advancePc 1)) := by
  refine step_of_fetched hst hop ?_
  have harg' : (s.advancePc 1).operand8 = .ok n := harg
  simp only [hfmt, State.fetchOperand, harg']

theorem step_of_opN8_fault {f : Fault} (harg : s.memRead8 (s.pc + 1#16) = .error f) :
    step s = .next ((s.advancePc 1).takeFault f) := by
  refine step_of_operand_fault hst hop ?_
  have harg' : (s.advancePc 1).operand8 = .error f := harg
  simp only [hfmt, State.fetchOperand, harg']

/-- With the opcode at the last mapped address the operand is unmapped (R102). -/
theorem step_of_opN8_unmapped (hpc : s.pc = 0xDFFF#16) :
    step s = .next { s with pc := 0xE000#16, status := .faulted (.addressOutOfRange 0xE000#16) } := by
  rw [← s.takeFault_advancePc_of_last hpc]
  refine step_of_opN8_fault hst hop hfmt ?_
  rw [hpc]
  exact s.read8_unmapped (by decide) Config.activePage

/-- An instruction that loads its byte operand into a register sets that register and moves PC two on (R96, R97). -/
theorem step_of_loadByte {r : Reg8} {n : Byte} (harg : s.memRead8 (s.pc + 1#16) = .ok n)
    (hload : ∀ t, execResult (g n) t = (t.setR r n).advancePc 1) : step s = .next ((s.setR r n).advancePc 2) := by
  rw [step_of_opN8_ok hst hop hfmt harg, hload, State.setR_advancePc, State.advancePc_add]

end ByteOperand

/-! ### The obligations -/

/-- Settles O37: the operand's word read has three outcomes, and the word's bytes are H and L. -/
theorem loadHLStep : Obligations.LoadHLStep := by
  refine ⟨fun lo hi => ?_, fun s hs hst => ⟨fun hunmapped => ?_, fun hop => ⟨?_, ?_, ?_⟩⟩⟩
  · change [0x21#8, lowByte (wordOf hi lo), highByte (wordOf hi lo)] = _
    rw [lowByte_wordOf, highByte_wordOf]
  · exact step_of_unmapped_pc hst hunmapped
  · intro lo hi hend hlo hhi
    rw [step_of_opN16_bytes hst hop decodeOpcode_loadHL hs hend hlo hhi, execResult_loadHL_advancePc]
  · intro hpc
    rw [step_of_opN16_unmapped hst hop decodeOpcode_loadHL hpc, s.takeFault_advancePc_of_last hpc]
  · intro r hend hr
    exact step_of_opN16_fault hst hop decodeOpcode_loadHL (State.memRead16_windowEnd hs hend hr)

/-- Settles O38: LOAD C,n is the byte load into C. -/
theorem loadCStep : Obligations.LoadCStep := by
  refine ⟨fun n => rfl, fun s hst => ⟨fun hunmapped => ?_, fun hop => ⟨fun n harg => ?_, fun hpc => ?_⟩⟩⟩
  · exact step_of_unmapped_pc hst hunmapped
  · exact step_of_loadByte (r := .C) hst hop decodeOpcode_loadC harg fun _ => rfl
  · exact step_of_opN8_unmapped hst hop decodeOpcode_loadC hpc

/-- Settles O39: LOAD B,n is the byte load into B. -/
theorem loadBStep : Obligations.LoadBStep := by
  refine ⟨fun n => rfl, fun s hst => ⟨fun hunmapped => ?_, fun hop => ⟨fun n harg => ?_, fun hpc => ?_⟩⟩⟩
  · exact step_of_unmapped_pc hst hunmapped
  · exact step_of_loadByte (r := .B) hst hop decodeOpcode_loadB harg fun _ => rfl
  · exact step_of_opN8_unmapped hst hop decodeOpcode_loadB hpc

end Sys2Proof.Machine
end

section
/-! Encoding (30_encoding.md): the decoder inverted, so that decoding and encoding are each other's inverse. -/

namespace Sys2Proof.Machine

/-! ### The decoder and the opcode map, inverted -/

/-- Everything a successful decode can have read, by the format of the opcode byte (R68). -/
theorem decode_cases {bs rest : List Byte} {i : Instr} (h : decode bs = .ok (i, rest)) :
    (∃ op, bs = op :: rest ∧ decodeOpcode op = .op i) ∨
    (∃ op n g, bs = op :: n :: rest ∧ decodeOpcode op = .opN8 g ∧ i = g n) ∨
    (∃ op lo hi g, bs = op :: lo :: hi :: rest ∧ decodeOpcode op = .opN16 g ∧ i = g (wordOf hi lo)) := by
  cases bs with
  | nil => cases h
  | cons op tail =>
    cases hfmt : decodeOpcode op with
    | op j =>
      cases (decode_of_op hfmt tail).symm.trans h
      exact .inl ⟨op, rfl, hfmt⟩
    | opN8 g =>
      match tail with
      | [] => simp [decode, hfmt] at h
      | n :: tail =>
        cases (decode_of_opN8 hfmt n tail).symm.trans h
        exact .inr (.inl ⟨op, n, g, rfl, hfmt, rfl⟩)
    | opN16 g =>
      match tail with
      | [] | [_] => simp [decode, hfmt] at h
      | lo :: hi :: tail =>
        cases (decode_of_opN16 hfmt lo hi tail).symm.trans h
        exact .inr (.inr ⟨op, lo, hi, g, rfl, hfmt, rfl⟩)

/-- The opcodes without operand (R72, R75). -/
theorem opcode_of_op {op : Byte} {i : Instr} (h : decodeOpcode op = .op i) :
    (op = 0x00#8 ∧ i = .nop) ∨ (op = 0xAF#8 ∧ i = .xorAA) ∨ (op ∉ definedOpcodes ∧ i = .undefined op) := by
  rcases decodeOpcode_cases op with
    ⟨rfl, h'⟩ | ⟨rfl, h'⟩ | ⟨rfl, h'⟩ | ⟨rfl, h'⟩ | ⟨rfl, h'⟩ | ⟨rfl, h'⟩ | ⟨hop, h'⟩ <;> cases h'.symm.trans h
  · exact .inl ⟨rfl, rfl⟩
  · exact .inr (.inl ⟨rfl, rfl⟩)
  · exact .inr (.inr ⟨hop, rfl⟩)

/-- The opcodes with a byte operand (R72). -/
theorem opcode_of_opN8 {op : Byte} {g : Byte → Instr} (h : decodeOpcode op = .opN8 g) :
    (op = 0x0E#8 ∧ g = .loadCn) ∨ (op = 0x06#8 ∧ g = .loadBn) := by
  rcases decodeOpcode_cases op with
    ⟨rfl, h'⟩ | ⟨rfl, h'⟩ | ⟨rfl, h'⟩ | ⟨rfl, h'⟩ | ⟨rfl, h'⟩ | ⟨rfl, h'⟩ | ⟨hop, h'⟩ <;> cases h'.symm.trans h
  · exact .inl ⟨rfl, rfl⟩
  · exact .inr ⟨rfl, rfl⟩

/-- The opcodes with a word operand (R72). -/
theorem opcode_of_opN16 {op : Byte} {g : Word → Instr} (h : decodeOpcode op = .opN16 g) :
    (op = 0xC3#8 ∧ g = .jumpNn) ∨ (op = 0x21#8 ∧ g = .loadHLnn) := by
  rcases decodeOpcode_cases op with
    ⟨rfl, h'⟩ | ⟨rfl, h'⟩ | ⟨rfl, h'⟩ | ⟨rfl, h'⟩ | ⟨rfl, h'⟩ | ⟨rfl, h'⟩ | ⟨hop, h'⟩ <;> cases h'.symm.trans h
  · exact .inl ⟨rfl, rfl⟩
  · exact .inr ⟨rfl, rfl⟩

/-- UNDEFINED is well-formed where it holds none of the six defined opcodes (R75). -/
theorem wellFormed_undefined_iff (op : Byte) : (Instr.undefined op).wellFormed = true ↔ op ∉ definedOpcodes := by
  simp [Instr.wellFormed]

/-! ### What the bytes that select an instruction encode (R68, R71) -/

theorem encode_of_op {op : Byte} {i : Instr} (h : decodeOpcode op = .op i) :
    i.wellFormed = true ∧ encode i = [op] := by
  rcases opcode_of_op h with ⟨rfl, rfl⟩ | ⟨rfl, rfl⟩ | ⟨hop, rfl⟩
  · exact ⟨rfl, rfl⟩
  · exact ⟨rfl, rfl⟩
  · exact ⟨(wellFormed_undefined_iff op).mpr hop, rfl⟩

theorem encode_of_opN8 {op : Byte} {g : Byte → Instr} (h : decodeOpcode op = .opN8 g) (n : Byte) :
    (g n).wellFormed = true ∧ encode (g n) = [op, n] := by
  rcases opcode_of_opN8 h with ⟨rfl, rfl⟩ | ⟨rfl, rfl⟩ <;> exact ⟨rfl, rfl⟩

theorem encode_of_opN16 {op : Byte} {g : Word → Instr} (h : decodeOpcode op = .opN16 g) (nn : Word) :
    (g nn).wellFormed = true ∧ encode (g nn) = [op, lowByte nn, highByte nn] := by
  rcases opcode_of_opN16 h with ⟨rfl, rfl⟩ | ⟨rfl, rfl⟩ <;> exact ⟨rfl, rfl⟩

/-- A word operand written low byte first is read back. -/
theorem decode_of_opN16_bytes {op : Byte} {g : Word → Instr} (h : decodeOpcode op = .opN16 g) (nn : Word)
    (rest : List Byte) : decode (op :: lowByte nn :: highByte nn :: rest) = .ok (g nn, rest) := by
  rw [decode_of_opN16 h, wordOf_highByte_lowByte]

/-! ### The obligations -/

/-- Settles O1, constructor by constructor: the encoding starts with the opcode that selects the constructor's format, and
an undefined opcode that is well-formed selects UNDEFINED. -/
theorem decodeOfEncodeIsTheInstruction : Obligations.DecodeOfEncodeIsTheInstruction := by
  intro i rest hwf
  cases i with
  | nop => exact decode_of_op decodeOpcode_nop rest
  | jumpNn nn => exact decode_of_opN16_bytes decodeOpcode_jump nn rest
  | xorAA => exact decode_of_op decodeOpcode_xor rest
  | loadHLnn nn => exact decode_of_opN16_bytes decodeOpcode_loadHL nn rest
  | loadCn n => exact decode_of_opN8 decodeOpcode_loadC n rest
  | loadBn n => exact decode_of_opN8 decodeOpcode_loadB n rest
  | undefined op =>
    exact decode_of_op (decodeOpcode_undefined ((wellFormed_undefined_iff op).mp hwf)) rest

/-- Settles O2: the bytes read are the opcode and its operand, and those are the encoding. -/
theorem decodedBytesAreTheEncoding : Obligations.DecodedBytesAreTheEncoding := by
  intro bs rest i h
  rcases decode_cases h with ⟨op, rfl, hfmt⟩ | ⟨op, n, g, rfl, hfmt, rfl⟩ | ⟨op, lo, hi, g, rfl, hfmt, rfl⟩
  · obtain ⟨hwf, henc⟩ := encode_of_op hfmt
    exact ⟨hwf, by rw [henc]; rfl⟩
  · obtain ⟨hwf, henc⟩ := encode_of_opN8 hfmt n
    exact ⟨hwf, by rw [henc]; rfl⟩
  · obtain ⟨hwf, henc⟩ := encode_of_opN16 hfmt (wordOf hi lo)
    exact ⟨hwf, by rw [henc, lowByte_wordOf, highByte_wordOf]; rfl⟩

/-- Settles O4: the decoder evaluated on each row's bytes. -/
theorem workedEncodingsDecode : Obligations.WorkedEncodingsDecode :=
  ⟨rfl, rfl, rfl, rfl, rfl, rfl, rfl⟩

end Sys2Proof.Machine
end

section
/-! A step as one of four effects (40_fetch_dispatch.md R81): which one depends on PC, the latch and what the core reads at
page 0, so two states that agree there step in lockstep. -/

namespace Sys2Proof.Machine

/-! ### The four effects -/

/-- What a step does to the state, with everything it read already chosen. -/
inductive StepEffect where
  /-- The machine was faulted (R89). -/
  | idle
  /-- The opcode's own fetch faults (R82). -/
  | opcodeFault (f : Fault)
  /-- The operand's fetch faults (R85). -/
  | operandFault (f : Fault)
  /-- The instruction runs (R84). -/
  | run (i : Instr)

/-- The state after the effect; PC is one past the opcode where the opcode was fetched (R83). -/
def StepEffect.apply : StepEffect → State → State
  | .idle, s => s
  | .opcodeFault f, s => s.takeFault f
  | .operandFault f, s => (s.advancePc 1).takeFault f
  | .run i, s => execResult i (s.advancePc 1)

/-- The two states look alike to a step: the same PC and latch, and the same answer to every core read. -/
structure State.CoreAgrees (s s' : State) : Prop where
  pc : s'.pc = s.pc
  status : s'.status = s.status
  memRead8 : ∀ addr, s'.memRead8 addr = s.memRead8 addr
  memRead16 : ∀ addr, s'.memRead16 addr = s.memRead16 addr

theorem State.CoreAgrees.refl (s : State) : s.CoreAgrees s := ⟨rfl, rfl, fun _ => rfl, fun _ => rfl⟩

/-- Equal storage, PC and latch suffice. -/
theorem State.CoreAgrees.of_sameMemory {s s' : State} (hmem : s.SameMemory s') (hpc : s'.pc = s.pc)
    (hst : s'.status = s.status) : s.CoreAgrees s' :=
  ⟨hpc, hst, fun addr => State.read8_congr hmem addr _, fun addr => State.read16_congr hmem addr _⟩

theorem State.CoreAgrees.setR (s : State) (n : Reg8) (v : Byte) : s.CoreAgrees (s.setR n v) :=
  .of_sameMemory (s.setR_sameMemory n v) (s.setR_pc n v) (s.setR_status n v)

/-- The operand fetched is the same. -/
theorem State.CoreAgrees.fetchOperand {s s' : State} (h : s.CoreAgrees s') (fmt : Format) :
    (s'.advancePc 1).fetchOperand fmt = (s.advancePc 1).fetchOperand fmt := by
  cases fmt <;>
    simp only [State.fetchOperand, State.operand8, State.operand16, State.memRead8_advancePc, State.memRead16_advancePc,
      State.advancePc_pc, h.pc, h.memRead8, h.memRead16]

/-- States that look alike to a step take the same effect. -/
theorem step_lockstep {s s' : State} (h : s.CoreAgrees s') :
    ∃ e : StepEffect, step s = .next (e.apply s) ∧ step s' = .next (e.apply s') := by
  have hread : s'.memRead8 s'.pc = s.memRead8 s.pc := by rw [h.pc, h.memRead8]
  rcases step_cases s with ⟨f, hst, hstep⟩ | ⟨hst, ⟨f, hop, hstep⟩ | ⟨op, f, hop, harg, hstep⟩ | ⟨op, i, hop, harg, hstep⟩⟩
  · exact ⟨.idle, hstep, step_of_faulted (h.status.trans hst)⟩
  · exact ⟨.opcodeFault f, hstep, step_of_opcode_fault (h.status.trans hst) (hread.trans hop)⟩
  · exact ⟨.operandFault f, hstep,
      step_of_operand_fault (h.status.trans hst) (hread.trans hop) ((h.fetchOperand _).trans harg)⟩
  · exact ⟨.run i, hstep, step_of_fetched (h.status.trans hst) (hread.trans hop) ((h.fetchOperand _).trans harg)⟩

/-- The same, for a step that is known to end in `t`. -/
theorem step_next_lockstep {s s' t : State} (h : s.CoreAgrees s') (ht : step s = .next t) :
    ∃ e : StepEffect, t = e.apply s ∧ step s' = .next (e.apply s') := by
  obtain ⟨e, he, he'⟩ := step_lockstep h
  cases he.symm.trans ht
  exact ⟨e, rfl, he'⟩

/-- Every step is one of the four effects. -/
theorem eq_apply_of_step {s t : State} (ht : step s = .next t) : ∃ e : StepEffect, t = e.apply s := by
  obtain ⟨e, he, -⟩ := step_next_lockstep (.refl s) ht
  exact ⟨e, he⟩

/-! ### What the effects leave alone -/

/-- No effect touches memory, SP, F, D or E (R16, R56). -/
theorem StepEffect.apply_frame (e : StepEffect) (s : State) :
    s.SameMemory (e.apply s) ∧ (e.apply s).sp = s.sp ∧ (e.apply s).f = s.f ∧ (e.apply s).d = s.d ∧
      (e.apply s).e = s.e := by
  cases e with
  | idle | opcodeFault | operandFault => exact ⟨⟨rfl, rfl, rfl, rfl, rfl, rfl⟩, rfl, rfl, rfl, rfl⟩
  | run i => exact execResult_frame i (s.advancePc 1)

/-- An effect never looks at a bank, so it commutes with replacing one. -/
theorem StepEffect.apply_putBank (e : StepEffect) (s : State) (r : Region) (page : Nat) (b : Bank) :
    e.apply (s.putBank r page b) = (e.apply s).putBank r page b := by
  cases e with
  | idle => rfl
  | opcodeFault | operandFault => cases r <;> rfl
  | run i => cases i <;> cases r <;> rfl

/-- F, D and E are neither read nor written by an effect (R16). -/
theorem StepEffect.apply_setR_of_untouched (e : StepEffect) (s : State) {n : Reg8} (hn : n ∈ [Reg8.F, .D, .E]) (v : Byte) :
    e.apply (s.setR n v) = (e.apply s).setR n v := by
  simp only [List.mem_cons, List.not_mem_nil, or_false] at hn
  rcases hn with rfl | rfl | rfl <;> cases e with
  | idle | opcodeFault | operandFault => rfl
  | run i => cases i <;> rfl

/-- What a register holds before an effect shows in that register at most: XOR A,A alone reads one, and its result is the
same for every value. -/
theorem StepEffect.apply_setR_erased (e : StepEffect) (s : State) (n : Reg8) (v : Byte) :
    (e.apply (s.setR n v)).setR n 0x00#8 = (e.apply s).setR n 0x00#8 := by
  cases e with
  | idle | opcodeFault | operandFault => cases n <;> rfl
  | run i =>
    cases i with
    | xorAA => cases n <;> simp only [StepEffect.apply, execResult, State.writeXor_self] <;> rfl
    | nop | jumpNn | loadHLnn | loadCn | loadBn | undefined => cases n <;> rfl

/-! ### Pages that the core does not select -/

/-- A paged region's page other than 0 is never the one that a core access selects (R55). -/
theorem State.selectBank_zero_putBank (s : State) {r : Region} {page : Nat} (b : Bank) (hr : r.isPaged = true)
    (hpage : page ≠ 0) (r' : Region) : (s.putBank r page b).selectBank r' 0 = s.selectBank r' 0 := by
  refine State.selectBank_putBank_ne b ?_
  by_cases h : r' = r
  · exact .inr ⟨hr, hpage.symm⟩
  · exact .inl h

theorem State.CoreAgrees.putBank (s : State) {r : Region} {page : Nat} (b : Bank) (hr : r.isPaged = true)
    (hpage : page ≠ 0) : s.CoreAgrees (s.putBank r page b) := by
  have hresolve (addr : Word) :
      (s.putBank r page b).resolve addr Config.activePage = s.resolve addr Config.activePage := by
    simp only [State.resolve, Config.activePage, State.selectBank_zero_putBank s b hr hpage]
  refine ⟨s.putBank_pc r page b, s.putBank_status r page b, fun addr => ?_, fun addr => ?_⟩
  · simp only [State.memRead8, State.read8, hresolve]
  · simp only [State.memRead16, State.read16, hresolve]

/-! ### The obligations -/

/-- Settles O43: the two states look alike to a step, and the step's effect commutes with replacing the page. -/
theorem otherPagesAreInvisible : Obligations.OtherPagesAreInvisible := by
  intro s t r page b hr hpage ht
  obtain ⟨e, rfl, hstep⟩ := step_next_lockstep (.putBank s b hr hpage) ht
  rw [hstep, e.apply_putBank]

/-- Settles O10: F is one of the registers that no effect reads or writes. -/
theorem flagRegisterIsInert : Obligations.FlagRegisterIsInert := by
  intro s t ht
  obtain ⟨e, rfl⟩ := eq_apply_of_step ht
  obtain ⟨-, -, hf, -⟩ := e.apply_frame s
  refine ⟨hf, fun v => ?_⟩
  obtain ⟨e', he, hstep⟩ := step_next_lockstep (.setR s .F v) ht
  rw [he]
  exact hstep.trans (congrArg _ (e'.apply_setR_of_untouched s (by decide) v))

/-- Settles O11: the states with and without the write look alike to a step. -/
theorem noRegisterSteersAStep : Obligations.NoRegisterSteersAStep := by
  intro s t n v ht
  obtain ⟨e, rfl, hstep⟩ := step_next_lockstep (.setR s n v) ht
  refine ⟨⟨_, hstep, e.apply_setR_erased s n v⟩, fun hn => ?_⟩
  rw [hstep, e.apply_setR_of_untouched s hn]

/-- Settles O42: each of the four effects leaves them alone. -/
theorem noStepWritesMemory : Obligations.NoStepWritesMemory := by
  intro s t ht
  obtain ⟨e, rfl⟩ := eq_apply_of_step ht
  obtain ⟨hmem, hframe⟩ := e.apply_frame s
  exact ⟨hmem, State.read8_congr hmem, hframe⟩

/-- Settles O52: whichever effect a step has, the effect is a next state. -/
theorem stepAlwaysAnswers : Obligations.StepAlwaysAnswers := by
  intro s
  obtain ⟨e, he, -⟩ := step_lockstep (.refl s)
  exact ⟨_, he⟩

end Sys2Proof.Machine
end

section
/-! The access paths (20_memory.md sections 3 to 5): the decoder by address bits, the outcomes of every read and write, and
what a write leaves alone. -/

namespace Sys2Proof.Machine

/-! ### The decoder by address bits -/

/-- The bits of an address from `k` up say in which of the windows of `2 ^ k` bytes it lies. -/
theorem topBits_eq_iff (addr : Word) {k : Nat} (hk : k ≤ 15) (v : BitVec (15 - k + 1)) :
    addr.extractLsb 15 k = v ↔ v.toNat * 2 ^ k ≤ addr.toNat ∧ addr.toNat < (v.toNat + 1) * 2 ^ k := by
  have hpow : 2 ^ (15 - k + 1) * 2 ^ k = 2 ^ 16 := by rw [← Nat.pow_add]; congr 1; omega
  have hlt : addr.toNat / 2 ^ k < 2 ^ (15 - k + 1) := Nat.div_lt_of_lt_mul (by rw [Nat.mul_comm, hpow]; exact addr.isLt)
  rw [← BitVec.toNat_inj, BitVec.extractLsb_toNat, Nat.shiftRight_eq_div_pow, Nat.mod_eq_of_lt hlt,
    Nat.div_eq_iff (by positivity), Nat.add_mul]
  have := Nat.two_pow_pos k
  omega

/-! ### Which bank a region and a page select -/

/-- Everything that selecting a bank can answer: a page at or above a page count has none (R40, R45). -/
theorem State.selectBank_cases (s : State) (r : Region) (page : Nat) :
    (∃ b, s.selectBank r page = .ok b ∧ (r = .romx → page < s.romx.count) ∧ (r = .wramx → page < s.wramx.count)) ∨
    (r = .romx ∧ s.romx.count ≤ page ∧ s.selectBank r page = .error (.pageOutOfRange .romx page)) ∨
    (r = .wramx ∧ s.wramx.count ≤ page ∧ s.selectBank r page = .error (.pageOutOfRange .wramx page)) := by
  cases r with
  | rom0 | vram | eram | wram0 => exact .inl ⟨_, rfl, nofun, nofun⟩
  | romx =>
    rcases PagedBank.page_cases .romx s.romx page with ⟨b, hlt, -, h⟩ | ⟨hle, h⟩
    · exact .inl ⟨b, h, fun _ => hlt, nofun⟩
    · exact .inr (.inl ⟨rfl, hle, h⟩)
  | wramx =>
    rcases PagedBank.page_cases .wramx s.wramx page with ⟨b, hlt, -, h⟩ | ⟨hle, h⟩
    · exact .inl ⟨b, h, nofun, fun _ => hlt⟩
    · exact .inr (.inr ⟨rfl, hle, h⟩)

/-- The byte behind a routed address is the one that the routed bank holds at the offset (R44). -/
theorem State.byteAt_of_selectBank {s : State} {addr : Word} {page : Nat} {r : Region} {b : Bank}
    (hr : regionOf addr = .ok r) (hb : s.selectBank r page = .ok b) :
    s.byteAt addr page = Memory.read b.cells (addr.toNat - r.base) := by
  obtain ⟨hlo, hhi⟩ := regionOf_ok_iff.mp hr
  cases r <;>
    simp only [Region.base, Region.capacity, Config.romBankSize, Config.vramSize, Config.eramSize, Config.wramBankSize,
      State.selectBank, PagedBank.page_ok_iff, Except.ok.injEq] at hlo hhi hb ⊢ <;>
    unfold State.byteAt
  case rom0 => rw [if_pos (by omega), hb, Nat.sub_zero]
  case romx => rw [if_neg (by omega), if_pos (by omega), List.getD_eq_getElem?_getD, hb, Option.getD_some]
  case vram => rw [if_neg (by omega), if_neg (by omega), if_pos (by omega), hb]
  case eram => rw [if_neg (by omega), if_neg (by omega), if_neg (by omega), if_pos (by omega), hb]
  case wram0 =>
    rw [if_neg (by omega), if_neg (by omega), if_neg (by omega), if_neg (by omega), if_pos (by omega), hb]
  case wramx =>
    rw [if_neg (by omega), if_neg (by omega), if_neg (by omega), if_neg (by omega), if_neg (by omega),
      List.getD_eq_getElem?_getD, hb, Option.getD_some]

/-! ### Accesses that the router refuses -/

section RouterFault

variable {s : State} {addr : Word} {page : Nat} {f : Fault} (h : s.resolve addr page = .error f)
include h

theorem State.write8_of_resolve_error (v : Byte) : s.write8 addr page v = .error f := by
  simp only [State.write8, h]

theorem State.write16_of_resolve_error (v : Word) : s.write16 addr page v = .error f := by
  simp only [State.write16, h]

end RouterFault

/-- The router fails where the selection of the bank does (R46). -/
theorem State.resolve_of_selectBank_error {s : State} {addr : Word} {page : Nat} {r : Region} {f : Fault}
    (hr : regionOf addr = .ok r) (hb : s.selectBank r page = .error f) : s.resolve addr page = .error f := by
  simp only [State.resolve, hr, hb]

theorem State.resolve_unmapped (s : State) {addr : Word} (h : 0xE000 ≤ addr.toNat) (page : Nat) :
    s.resolve addr page = .error (.addressOutOfRange addr) := by
  simp only [State.resolve, regionOf_unmapped h]

/-! ### Writes at a routed address -/

/-- The Bank with one byte stored, what a write below the capacity leaves (R38). -/
def Bank.setByte (b : Bank) (off : Nat) (v : Byte) : Bank := { b with cells := Memory.write b.cells off v }

@[simp] theorem Bank.setByte_capacity (b : Bank) (off : Nat) (v : Byte) : (b.setByte off v).capacity = b.capacity := rfl
@[simp] theorem Bank.setByte_cells (b : Bank) (off : Nat) (v : Byte) :
    (b.setByte off v).cells = Memory.write b.cells off v := rfl

theorem Bank.write_eq_setByte {id : BankId} {b : Bank} {off : Nat} (h : off < b.capacity) (v : Byte) :
    b.write id off v = .ok (b.setByte off v) := Bank.write_of_lt h

section RoutedWrite

variable {s : State} {addr : Word} {page : Nat} {t : Target} (hs : s.Inv) (ht : s.resolve addr page = .ok t)
include hs ht

/-- A routed byte write never faults (R51). -/
theorem State.write8_of_resolve (v : Byte) :
    s.write8 addr page v = .ok (s.putBank t.region t.page (t.bank.setByte t.off v)) := by
  obtain ⟨-, hbank, -, -, hlt⟩ := State.resolve_ok ht
  obtain ⟨hcap, -⟩ := State.selectBank_wf hs hbank
  simp only [State.write8, ht, Bank.write_eq_setByte (hcap ▸ hlt)]

/-- A routed word write off the window's end puts the low byte at the offset and the high byte after it (R53). -/
theorem State.write16_of_resolve (hend : isWindowEnd addr = false) (v : Word) :
    s.write16 addr page v =
      .ok (s.putBank t.region t.page ((t.bank.setByte t.off (lowByte v)).setByte (t.off + 1) (highByte v))) := by
  have hnext := Target.off_succ_lt_of_resolve ht hend
  obtain ⟨-, hbank, -, -, hlt⟩ := State.resolve_ok ht
  obtain ⟨hcap, -⟩ := State.selectBank_wf hs hbank
  rw [← hcap] at hlt hnext
  have hnext' : t.off + 1 < (t.bank.setByte t.off (lowByte v)).capacity := hnext
  simp only [State.write16, ht, if_neg (Nat.not_le.mpr hnext), Bank.write_eq_setByte hlt, Bank.write_eq_setByte hnext']

/-- A word write at a window's last address is rejected before anything is stored (R53, D6). -/
theorem State.write16_of_resolve_windowEnd (hend : isWindowEnd addr = true) (v : Word) :
    s.write16 addr page v = .error (.outOfBounds t.id t.region.capacity) := by
  obtain ⟨hr, hbank, -, hoff, -⟩ := State.resolve_ok ht
  obtain ⟨hcap, -⟩ := State.selectBank_wf hs hbank
  have hnext : t.off + 1 = t.region.capacity := by rw [hoff, (isWindowEnd_iff hr).mp hend]
  simp only [State.write16, ht, hnext, if_pos hcap.le]

end RoutedWrite

/-! ### What a replaced bank shows -/

theorem State.getR_putBank (s : State) (r : Region) (page : Nat) (b : Bank) (n : Reg8) :
    (s.putBank r page b).getR n = s.getR n := by
  cases n <;> simp

theorem State.putBank_sameRegisters (s : State) (r : Region) (page : Nat) (b : Bank) :
    s.SameRegisters (s.putBank r page b) :=
  ⟨s.getR_putBank r page b, s.putBank_sp r page b, s.putBank_pc r page b, s.putBank_status r page b⟩

theorem State.putBank_romx_count (s : State) (r : Region) (page : Nat) (b : Bank) :
    (s.putBank r page b).romx.count = s.romx.count := by
  cases r <;> simp

theorem State.putBank_wramx_count (s : State) (r : Region) (page : Nat) (b : Bank) :
    (s.putBank r page b).wramx.count = s.wramx.count := by
  cases r <;> simp

/-- After the routed bank is replaced, the same address is routed to the new bank. -/
theorem State.resolve_putBank_same {s : State} {addr : Word} {page : Nat} {t : Target}
    (ht : s.resolve addr page = .ok t) (b : Bank) :
    (s.putBank t.region t.page b).resolve addr page = .ok { t with bank := b } := by
  obtain ⟨hr, hbank, rfl, hoff, -⟩ := State.resolve_ok ht
  rw [State.resolve_of_ok hr (State.selectBank_putBank_same b hbank), ← hoff]

/-- A region that is not paged ignores the page (R54, D13). -/
theorem State.selectBank_of_not_paged (s : State) {r : Region} (hr : r.isPaged = false) (page page' : Nat) :
    s.selectBank r page = s.selectBank r page' := by
  cases r with
  | rom0 | vram | eram | wram0 => rfl
  | romx | wramx => cases hr

/-- A byte read does not notice that a bank was replaced by one of the same capacity, unless it reads that bank at an offset
where the two differ. -/
theorem State.read8_putBank {s : State} {r : Region} {page : Nat} {b b' : Bank} (hb : s.selectBank r page = .ok b)
    (hcap : b'.capacity = b.capacity) {addr' : Word} {page' : Nat}
    (hread : regionOf addr' = .ok r → (r.isPaged = true → page = page') →
      Memory.read b'.cells (addr'.toNat - r.base) = Memory.read b.cells (addr'.toNat - r.base)) :
    (s.putBank r page b').read8 addr' page' = s.read8 addr' page' := by
  rcases regionOf_cases addr' with ⟨r', -, hr'⟩ | ⟨hge, -⟩
  · by_cases hsame : r' = r ∧ (r.isPaged = true → page = page')
    · obtain ⟨rfl, hpage⟩ := hsame
      have hselect (u : State) : u.selectBank r' page' = u.selectBank r' page := by
        cases hp : r'.isPaged with
        | false => exact u.selectBank_of_not_paged hp page' page
        | true => rw [hpage hp]
      have hold := (hselect s).trans hb
      have hnew := (hselect (s.putBank r' page b')).trans (State.selectBank_putBank_same b' hb)
      simp only [State.read8, State.resolve_of_ok hr' hold, State.resolve_of_ok hr' hnew, Bank.read, hcap,
        hread hr' hpage, Target.id]
    · have hne : r' ≠ r ∨ (r.isPaged = true ∧ page' ≠ page) := by tauto
      simp only [State.read8, State.resolve, hr', State.selectBank_putBank_ne b' hne]
  · rw [State.read8_unmapped _ hge, State.read8_unmapped _ hge]

/-- Two bytes of storage that are not the same stand at different offsets, where one bank holds both. -/
theorem offset_ne_of_not_sameByte {addr addr' : Word} {page page' : Nat} {r : Region} (hr : regionOf addr = .ok r)
    (hr' : regionOf addr' = .ok r) (hpage : r.isPaged = true → page = page')
    (h : ¬ sameByte addr page addr' page') : addr'.toNat - r.base ≠ addr.toNat - r.base := by
  intro heq
  obtain ⟨hlo, -⟩ := regionOf_ok_iff.mp hr
  obtain ⟨hlo', -⟩ := regionOf_ok_iff.mp hr'
  refine h ⟨BitVec.eq_of_toNat_eq (by omega), fun r₁ hr₁ hp => ?_⟩
  cases hr.symm.trans hr₁
  exact hpage hp

/-! ### Canonical memories by what they read -/

theorem Memory.read_cons_self (k : Nat) (w : Byte) (m : Memory) : Memory.read ((k, w) :: m) k = w := by
  rw [Memory.read_cons, if_pos rfl]

/-- The first offset of a canonical memory is listed once. -/
theorem Memory.read_tail_head {k : Nat} {w : Byte} {m : Memory} (hm : Memory.wf ((k, w) :: m)) :
    Memory.read m k = unlistedByte := by
  obtain ⟨hlt, -, -⟩ := Memory.wf_cons.mp hm
  exact Memory.read_unlisted fun x hx => (hlt x hx).ne'

/-- Where two canonical memories read the same, neither starts below the other: the lower first offset would be unlisted in
the other memory. -/
theorem Memory.head_le_of_read_eq {k k' : Nat} {w w' : Byte} {m m' : Memory} (hm : Memory.wf ((k, w) :: m))
    (hm' : Memory.wf ((k', w') :: m')) (hread : ∀ j, Memory.read ((k', w') :: m') j = Memory.read ((k, w) :: m) j) :
    k' ≤ k := by
  obtain ⟨-, hw, -⟩ := Memory.wf_cons.mp hm
  obtain ⟨hlt', -, -⟩ := Memory.wf_cons.mp hm'
  by_contra hlt
  have hunlisted : Memory.read ((k', w') :: m') k = unlistedByte := by
    refine Memory.read_unlisted fun x hx => ?_
    rcases List.mem_cons.mp hx with rfl | hx
    · exact fun h => hlt h.le
    · have := hlt' x hx
      omega
  exact hw ((Memory.read_cons_self k w m).symm.trans ((hread k).symm.trans hunlisted))

/-! ### The obligations -/

/-- Settles O15: each test of address bits is a range of addresses, and the first test met is the region's window. -/
theorem regionByAddressBits : Obligations.RegionByAddressBits := by
  intro addr
  have htop2 (v : BitVec 2) := topBits_eq_iff addr (k := 14) (by decide) v
  have htop3 (v : BitVec 3) := topBits_eq_iff addr (k := 13) (by decide) v
  have htop4 (v : BitVec 4) := topBits_eq_iff addr (k := 12) (by decide) v
  simp only [htop2, htop3, htop4, BitVec.toNat_ofNat, Nat.reducePow]
  rcases regionOf_cases addr with ⟨r, -, hr⟩ | ⟨hge, hr⟩
  · obtain ⟨hlo, hhi⟩ := regionOf_ok_iff.mp hr
    rw [hr]
    cases r <;>
      simp only [Region.base, Region.capacity, Config.romBankSize, Config.vramSize, Config.eramSize,
        Config.wramBankSize] at hlo hhi
    case rom0 => rw [if_pos (by omega)]
    case romx => rw [if_neg (by omega), if_pos (by omega)]
    case vram => rw [if_neg (by omega), if_neg (by omega), if_pos (by omega)]
    case eram => rw [if_neg (by omega), if_neg (by omega), if_neg (by omega), if_pos (by omega)]
    case wram0 => rw [if_neg (by omega), if_neg (by omega), if_neg (by omega), if_neg (by omega), if_pos (by omega)]
    case wramx =>
      rw [if_neg (by omega), if_neg (by omega), if_neg (by omega), if_neg (by omega), if_neg (by omega),
        if_pos (by omega)]
  · rw [hr, if_neg (by omega), if_neg (by omega), if_neg (by omega), if_neg (by omega), if_neg (by omega),
      if_neg (by omega)]

/-- Settles O16: the router refuses each of them, and every access path starts with the router. -/
theorem checksInDataPathOrder : Obligations.ChecksInDataPathOrder := by
  intro s addr page v w f hcase
  have hresolve : s.resolve addr page = .error f := by
    rcases hcase with ⟨hge, rfl⟩ | ⟨hr, hle, rfl⟩ | ⟨hr, hle, rfl⟩
    · exact s.resolve_unmapped hge page
    · rcases PagedBank.page_cases .romx s.romx page with ⟨-, hlt, -⟩ | ⟨-, h⟩
      · omega
      · exact State.resolve_of_selectBank_error hr h
    · rcases PagedBank.page_cases .wramx s.wramx page with ⟨-, hlt, -⟩ | ⟨-, h⟩
      · omega
      · exact State.resolve_of_selectBank_error hr h
  exact ⟨State.read8_of_resolve_error hresolve, State.read16_of_resolve_error hresolve,
    State.write8_of_resolve_error hresolve v, State.write16_of_resolve_error hresolve w⟩

/-- Settles O17: the region's window is the address range, and the selection of its bank decides between the page fault and
the byte. -/
theorem byteReadOutcomes : Obligations.ByteReadOutcomes := by
  intro s addr page hs
  rcases regionOf_cases addr with ⟨r, hlt, hr⟩ | ⟨hge, -⟩
  · rw [if_neg (by omega)]
    have hwindow := regionOf_ok_iff.mp hr
    rcases s.selectBank_cases r page with ⟨b, hb, hromx, hwramx⟩ | ⟨rfl, hle, hb⟩ | ⟨rfl, hle, hb⟩
    · have hromx' : ¬ (0x4000 ≤ addr.toNat ∧ addr.toNat < 0x8000 ∧ s.romx.count ≤ page) := by
        rintro ⟨hlo, hhi, hle⟩
        have hr' : regionOf addr = .ok .romx := regionOf_ok_iff.mpr ⟨hlo, hhi⟩
        cases hr.symm.trans hr'
        have := hromx rfl
        omega
      have hwramx' : ¬ (0xD000 ≤ addr.toNat ∧ s.wramx.count ≤ page) := by
        rintro ⟨hlo, hle⟩
        have hr' : regionOf addr = .ok .wramx := regionOf_ok_iff.mpr ⟨hlo, hlt⟩
        cases hr.symm.trans hr'
        have := hwramx rfl
        omega
      rw [if_neg hromx', if_neg hwramx', State.read8_of_resolve (State.resolve_of_ok hr hb) hs,
        State.byteAt_of_selectBank hr hb]
    · rw [if_pos ⟨hwindow.1, hwindow.2, hle⟩]
      exact State.read8_of_resolve_error (State.resolve_of_selectBank_error hr hb)
    · have hlo : 0xD000 ≤ addr.toNat := hwindow.1
      rw [if_neg (by omega), if_pos ⟨hlo, hle⟩]
      exact State.read8_of_resolve_error (State.resolve_of_selectBank_error hr hb)
  · rw [if_pos hge, State.read8_unmapped s hge]

/-- Settles O18, by the two outcomes of each access path. -/
theorem readsChangeNothing : Obligations.ReadsChangeNothing := by
  intro s addr page
  have hbyte : (s.perform (.read8 addr page)).1 = s ∧
      (∀ v, (s.perform (.read8 addr page)).2 = .byte v ↔ s.read8 addr page = .ok v) ∧
      ∀ f, (s.perform (.read8 addr page)).2 = .fault f ↔ s.read8 addr page = .error f := by
    cases h : s.read8 addr page with
    | ok v => simp [State.perform_read8_of_ok h]
    | error f => simp [State.perform_read8_of_error h]
  have hword : (s.perform (.read16 addr page)).1 = s ∧
      (∀ v, (s.perform (.read16 addr page)).2 = .word v ↔ s.read16 addr page = .ok v) ∧
      ∀ f, (s.perform (.read16 addr page)).2 = .fault f ↔ s.read16 addr page = .error f := by
    cases h : s.read16 addr page with
    | ok v => simp [State.perform_read16_of_ok h]
    | error f => simp [State.perform_read16_of_error h]
  obtain ⟨hstate8, hok8, herr8⟩ := hbyte
  obtain ⟨hstate16, hok16, herr16⟩ := hword
  exact ⟨hstate8, hstate16, hok8, hok16, herr8, herr16⟩

/-- Settles O20: the Bank is routed, and its own bound rejects the second byte. -/
theorem straddlingWordIsRejected : Obligations.StraddlingWordIsRejected := by
  intro s addr page r b v hs hend hr hb
  have ht := State.resolve_of_ok hr hb
  exact ⟨State.read16_of_resolve_windowEnd hs ht hend, State.write16_of_resolve_windowEnd hs ht hend v⟩

/-- Settles O21: a routed write replaces the routed bank by one that differs at the offset alone. -/
theorem byteWriteChangesOneByte : Obligations.ByteWriteChangesOneByte := by
  intro s addr page v hs
  cases ht : s.resolve addr page with
  | error f =>
    have hwrite := State.write8_of_resolve_error ht v
    exact .inl ⟨f, State.read8_of_resolve_error ht, hwrite, State.perform_write8_of_error hwrite⟩
  | ok t =>
    obtain ⟨hr, hbank, rfl, hoff, -⟩ := State.resolve_ok ht
    obtain ⟨-, hcells, -⟩ := State.selectBank_wf hs hbank
    have hwrite := State.write8_of_resolve hs ht v
    refine .inr ⟨_, hwrite, State.perform_write8_of_ok hwrite, ?_, s.putBank_sameRegisters _ _ _, ?_⟩
    · rw [State.read8_of_resolve (State.resolve_putBank_same ht _) (State.write8_inv hs hwrite), Bank.setByte_cells,
        Memory.read_write_same hcells]
    · intro addr' page' hne
      refine State.read8_putBank hbank (t.bank.setByte_capacity t.off v) fun hr' hpage => ?_
      exact Memory.read_write_ne _ _ (hoff ▸ offset_ne_of_not_sameByte hr hr' hpage hne)

/-- Settles O22: page 0 is always there, so the write succeeds, and O21 says what it does. -/
theorem writeIsSeenByTheNextFetch : Obligations.WriteIsSeenByTheNextFetch := by
  intro s addr v hs hlt
  rcases byteWriteChangesOneByte s addr 0 v hs with ⟨f, hread, -⟩ | ⟨s', hwrite, -, hread, -, hother⟩
  · obtain ⟨w, hw⟩ := State.memRead8_mapped hs hlt
    cases hw.symm.trans hread
  · obtain ⟨t, b, -, -, rfl⟩ := State.write8_ok hwrite
    refine ⟨_, hwrite, hread, s.putBank_romx_count _ _ _, s.putBank_wramx_count _ _ _, fun addr' hne => ?_⟩
    exact hother addr' 0 fun hsame => hne hsame.1.symm

/-- Settles O23: the router, the window's end and the two bytes of one bank, in the order of the checks. -/
theorem wordWriteIsAllOrNothing : Obligations.WordWriteIsAllOrNothing := by
  intro s addr page v hs
  cases ht : s.resolve addr page with
  | error f =>
    have hwrite := State.write16_of_resolve_error ht v
    exact .inl ⟨f, State.read16_of_resolve_error ht, hwrite, State.perform_write16_of_error hwrite⟩
  | ok t =>
    cases hend : isWindowEnd addr with
    | true =>
      have hwrite := State.write16_of_resolve_windowEnd hs ht hend v
      exact .inl ⟨_, State.read16_of_resolve_windowEnd hs ht hend, hwrite, State.perform_write16_of_error hwrite⟩
    | false =>
      obtain ⟨hr, hbank, rfl, hoff, -⟩ := State.resolve_ok ht
      obtain ⟨hrnext, -, -, hoffnext, -⟩ := State.resolve_ok (State.resolve_succ ht hend)
      obtain ⟨-, hcells, -⟩ := State.selectBank_wf hs hbank
      have hwrite := State.write16_of_resolve hs ht hend v
      have hs' := State.write16_inv hs hwrite
      have ht' := State.resolve_putBank_same ht ((t.bank.setByte t.off (lowByte v)).setByte (t.off + 1) (highByte v))
      have hlow : Memory.read ((t.bank.setByte t.off (lowByte v)).setByte (t.off + 1) (highByte v)).cells t.off =
          lowByte v := by
        rw [Bank.setByte_cells, Memory.read_write_ne _ _ (by omega), Bank.setByte_cells, Memory.read_write_same hcells]
      have hhigh : Memory.read ((t.bank.setByte t.off (lowByte v)).setByte (t.off + 1) (highByte v)).cells (t.off + 1) =
          highByte v := Memory.read_write_same (Memory.write_wf hcells t.off (lowByte v)) _ _
      refine .inr ⟨_, hwrite, State.perform_write16_of_ok hwrite, rfl, ?_, ?_, ?_, s.putBank_sameRegisters _ _ _, ?_⟩
      · rw [State.read16_of_resolve ht' hs' hend, hlow, hhigh, wordOf_highByte_lowByte]
      · rw [State.read8_of_resolve ht' hs', hlow]
        rfl
      · rw [State.read8_of_resolve (State.resolve_succ ht' hend) hs', hhigh]
        rfl
      · intro addr' page' hne hne'
        have hcap := (Bank.setByte_capacity _ (t.off + 1) (highByte v)).trans (t.bank.setByte_capacity t.off (lowByte v))
        refine State.read8_putBank hbank hcap fun hr' hpage => ?_
        have hoff' := offset_ne_of_not_sameByte hr hr' hpage hne
        have hoffnext' := offset_ne_of_not_sameByte hrnext hr' hpage hne'
        rw [← hoff] at hoff'
        rw [← hoffnext] at hoffnext'
        simp only [Bank.setByte_cells, Memory.read_write_ne _ _ hoff', Memory.read_write_ne _ _ hoffnext']

/-- Settles O24: neither the selection, the replacement nor the naming of a single Bank looks at the page. -/
theorem pageIsIgnoredBySingleBanks : Obligations.PageIsIgnoredBySingleBanks := by
  intro s addr page r v w hr hsingle
  simp only [State.read8, State.read16, State.write8, State.write16, State.resolve, hr]
  cases r with
  | rom0 | vram | eram | wram0 => exact ⟨rfl, rfl, rfl, rfl⟩
  | romx | wramx => exact absurd hsingle (by decide)

/-- Settles O25, by induction on both lists: equal reads give equal first offsets, then equal first bytes, then equal reads
of the rest. -/
theorem equalContentsAreEqualData : Obligations.EqualContentsAreEqualData := by
  intro m
  induction m with
  | nil =>
    rintro (_ | ⟨⟨k', w'⟩, m'⟩) - hm' hread
    · rfl
    · obtain ⟨-, hw', -⟩ := Memory.wf_cons.mp hm'
      exact absurd ((Memory.read_cons_self k' w' m').symm.trans (hread k').symm) hw'
  | cons x m ih =>
    obtain ⟨k, w⟩ := x
    rintro (_ | ⟨⟨k', w'⟩, m'⟩) hm hm' hread
    · obtain ⟨-, hw, -⟩ := Memory.wf_cons.mp hm
      exact absurd ((Memory.read_cons_self k w m).symm.trans (hread k)) hw
    · obtain rfl : k = k' :=
        Nat.le_antisymm (Memory.head_le_of_read_eq hm' hm hread) (Memory.head_le_of_read_eq hm hm' fun j => (hread j).symm)
      obtain rfl : w = w' := by simpa only [Memory.read_cons_self] using hread k
      obtain ⟨-, -, hwf⟩ := Memory.wf_cons.mp hm
      obtain ⟨-, -, hwf'⟩ := Memory.wf_cons.mp hm'
      have htail (j : Nat) : Memory.read m j = Memory.read m' j := by
        by_cases hj : k = j
        · rw [← hj, Memory.read_tail_head hm, Memory.read_tail_head hm']
        · simpa only [Memory.read_cons, if_neg hj] using hread j
      rw [ih m' hwf hwf' htail]

end Sys2Proof.Machine
end

section
/-! The cartridge-image loader and reset (20_memory.md section 7, 70_reset_and_hazards.md): the loader stores each chunk in a
bank of its own, never faults, and touches nothing else. -/

namespace Sys2Proof.Machine

/-! ### Chunks and their banks (R58, R59) -/

/-- The ROM region that chunk `k` goes to (R60). -/
def chunkRegion (k : Nat) : Region := if k = 0 then .rom0 else .romx

/-- The bank that chunk `k` goes to: the fixed bank for chunk 0, page `k - 1` for the others (R60). -/
def State.chunkBank (s : State) (k : Nat) : Except Fault Bank := s.selectBank (chunkRegion k) (k - 1)

theorem chunkRegion_capacity (k : Nat) : (chunkRegion k).capacity = Config.romBankSize := by
  unfold chunkRegion
  split <;> rfl

/-- No two chunks go to the same bank. -/
theorem chunkRegion_ne_or {k k' : Nat} (h : k' ≠ k) :
    chunkRegion k' ≠ chunkRegion k ∨ ((chunkRegion k).isPaged = true ∧ k' - 1 ≠ k - 1) := by
  unfold chunkRegion
  split
  · rw [if_neg (by omega)]
    exact .inl nofun
  · split
    · exact .inl nofun
    · exact .inr ⟨rfl, by omega⟩

theorem State.chunkBank_zero (s : State) : s.chunkBank 0 = .ok s.rom0 := rfl

/-- There is a bank for every chunk up to the page count. -/
theorem State.chunkBank_of_le (s : State) {k : Nat} (hk : k ≤ s.romx.count) : ∃ b, s.chunkBank k = .ok b := by
  cases k with
  | zero => exact ⟨_, s.chunkBank_zero⟩
  | succ page =>
    rcases PagedBank.page_cases .romx s.romx page with ⟨b, -, -, h⟩ | ⟨hle, -⟩
    · exact ⟨b, h⟩
    · omega

/-- The image is cut into at most one chunk more than there are pages (R58, R59, D24). -/
theorem chunkCount_le (len : Nat) : chunkCount len ≤ romPages len + 1 := by
  simp only [chunkCount, romPages, Config.romBankSize]
  omega

/-- From the chunk count on, a chunk starts at the image's end or beyond it (R58). -/
theorem length_le_of_chunkCount_le {len k : Nat} (hk : chunkCount len ≤ k) : len ≤ k * Config.romBankSize := by
  simp only [chunkCount, Config.romBankSize] at hk ⊢
  omega

/-- There is at least one page (R59). -/
theorem romPages_pos (len : Nat) : 0 < romPages len := Nat.le_max_left ..

theorem chunk_length_le (image : List Byte) (k : Nat) : (chunk image k).length ≤ Config.romBankSize :=
  List.length_take_le ..

/-- Byte `j` of chunk `k` is byte `k * P + j` of the image (R58). -/
theorem chunk_getD (image : List Byte) (k : Nat) {j : Nat} (hj : j < Config.romBankSize) (v : Byte) :
    (chunk image k).getD j v = image.getD (k * Config.romBankSize + j) v := by
  simp only [chunk, List.getD_eq_getElem?_getD, List.getElem?_take_of_lt hj, List.getElem?_drop]

/-! ### Storing bytes into a Bank (R60, the inner loop) -/

/-- Storing bytes that fit never faults; each offset then reads the byte stored there, or as before. -/
theorem Bank.store_of_le {n : Nat} (id : BankId) {b : Bank} {i : Nat} {vs : List Byte} (hb : Bank.wf n b)
    (hfit : i + vs.length ≤ n) :
    ∃ b', b.store id i vs = .ok b' ∧
      ∀ j, Memory.read b'.cells j =
        if i ≤ j then vs.getD (j - i) (Memory.read b.cells j) else Memory.read b.cells j := by
  induction vs generalizing b i with
  | nil => exact ⟨b, rfl, fun j => by simp⟩
  | cons v vs ih =>
    rw [List.length_cons] at hfit
    have hwrite : b.write id i v = .ok (b.setByte i v) := Bank.write_eq_setByte (by rw [hb.1]; omega) v
    obtain ⟨b', hstore, hread⟩ := ih (Bank.write_wf hb hwrite) (i := i + 1) (by omega)
    refine ⟨b', by simp only [Bank.store, hwrite, hstore], fun j => ?_⟩
    rw [hread, Bank.setByte_cells]
    rcases Nat.lt_trichotomy j i with hlt | rfl | hgt
    · rw [if_neg (by omega), if_neg (by omega), Memory.read_write_ne _ _ (by omega)]
    · rw [if_neg (by omega), if_pos (Nat.le_refl j), Memory.read_write_same hb.2.1, Nat.sub_self, List.getD_cons_zero]
    · rw [if_pos (by omega), if_pos (by omega), Memory.read_write_ne _ _ (by omega),
        show j - i = j - (i + 1) + 1 by omega, List.getD_cons_succ]

/-! ### What storing chunks does to the state (R60, the outer loop) -/

/-- The two states hold the same RAM, all four elements of it. -/
structure State.SameRam (s s' : State) : Prop where
  vram : s'.vram = s.vram
  eram : s'.eram = s.eram
  wram0 : s'.wram0 = s.wram0
  wramx : s'.wramx = s.wramx

/-- `s'` is `s` with the chunks of the given numbers stored: a stored chunk's bank reads the image's byte where the image has
one, every other byte of the ROM is as before, and so is all the rest of the state. -/
structure State.StoresChunks (image : List Byte) (ks : List Nat) (s s' : State) : Prop where
  inv : s'.Inv
  registers : s.SameRegisters s'
  ram : s.SameRam s'
  count : s'.romx.count = s.romx.count
  bytes : ∀ k b, s.chunkBank k = .ok b → ∃ b', s'.chunkBank k = .ok b' ∧ ∀ j < Config.romBankSize,
    Memory.read b'.cells j =
      if k ∈ ks then image.getD (k * Config.romBankSize + j) (Memory.read b.cells j) else Memory.read b.cells j

theorem State.StoresChunks.nil {s : State} (hs : s.Inv) (image : List Byte) : State.StoresChunks image [] s s where
  inv := hs
  registers := ⟨fun _ => rfl, rfl, rfl, rfl⟩
  ram := ⟨rfl, rfl, rfl, rfl⟩
  count := rfl
  bytes k b hb := ⟨b, hb, fun j _ => by simp⟩

/-- A byte of the image stored over itself is the same byte. -/
theorem getD_getD_self {α : Type} (l : List α) (i : Nat) (v : α) : l.getD i (l.getD i v) = l.getD i v := by
  simp only [List.getD_eq_getElem?_getD]
  cases l[i]? <;> rfl

/-- First one chunk, then the others. -/
theorem State.StoresChunks.cons {image : List Byte} {k : Nat} {ks : List Nat} {s s₁ s' : State}
    (h : State.StoresChunks image [k] s s₁) (h' : State.StoresChunks image ks s₁ s') :
    State.StoresChunks image (k :: ks) s s' where
  inv := h'.inv
  registers := by
    obtain ⟨hreg, hsp, hpc, hst⟩ := h.registers
    obtain ⟨hreg', hsp', hpc', hst'⟩ := h'.registers
    exact ⟨fun n => (hreg' n).trans (hreg n), hsp'.trans hsp, hpc'.trans hpc, hst'.trans hst⟩
  ram := ⟨h'.ram.vram.trans h.ram.vram, h'.ram.eram.trans h.ram.eram, h'.ram.wram0.trans h.ram.wram0,
    h'.ram.wramx.trans h.ram.wramx⟩
  count := h'.count.trans h.count
  bytes m b hb := by
    obtain ⟨b₁, hb₁, hread⟩ := h.bytes m b hb
    obtain ⟨b', hb', hread'⟩ := h'.bytes m b₁ hb₁
    refine ⟨b', hb', fun j hj => ?_⟩
    rw [hread' j hj, hread j hj]
    by_cases hm : m = k
    · subst hm
      rw [if_pos List.mem_cons_self, if_pos List.mem_cons_self, getD_getD_self, ite_self]
    · simp only [List.mem_cons, hm, List.not_mem_nil, false_or, if_false]

/-- The state with fresh ROM pages, as many as an image of length `len` needs (R59). -/
def State.withRomPages (s : State) (len : Nat) : State :=
  { s with romx := PagedBank.new (romPages len) Config.romBankSize }

theorem State.withRomPages_inv {s : State} (hs : s.Inv) (len : Nat) : (s.withRomPages len).Inv :=
  { hs with romx := PagedBank.new_wf _ (romPages_pos len) }

theorem State.withRomPages_count (s : State) (len : Nat) : (s.withRomPages len).romx.count = romPages len :=
  List.length_replicate

section Loader

variable {s : State} (hs : s.Inv) (image : List Byte)
include hs

/-- A chunk that has a bank is stored (R60, R61 (a)). -/
theorem State.storeChunk_of_le {k : Nat} (hk : k ≤ s.romx.count) :
    ∃ s', s.storeChunk image k = .ok s' ∧ State.StoresChunks image [k] s s' := by
  obtain ⟨b, hb⟩ := s.chunkBank_of_le hk
  have hwf : Bank.wf Config.romBankSize b := chunkRegion_capacity k ▸ State.selectBank_wf hs hb
  obtain ⟨b', hstore, hread⟩ := Bank.store_of_le ((chunkRegion k).bankId (k - 1)) (i := 0) (vs := chunk image k) hwf
    (by rw [Nat.zero_add]; exact chunk_length_le image k)
  have hok : s.storeChunk image k = .ok (s.putBank (chunkRegion k) (k - 1) b') := by
    rw [State.chunkBank, chunkRegion] at hb
    rw [chunkRegion] at hstore
    simp only [State.storeChunk, chunkRegion, hb, hstore]
  refine ⟨_, hok, State.storeChunk_inv hs hok, s.putBank_sameRegisters _ _ _, ?_, s.putBank_romx_count _ _ _, ?_⟩
  · unfold chunkRegion
    split <;> exact ⟨rfl, rfl, rfl, rfl⟩
  · intro m c hc
    by_cases hm : m = k
    · subst hm
      cases hb.symm.trans hc
      refine ⟨b', State.selectBank_putBank_same b' hb, fun j hj => ?_⟩
      rw [hread, if_pos (Nat.zero_le j), if_pos List.mem_cons_self, Nat.sub_zero, chunk_getD image m hj]
    · refine ⟨c, (State.selectBank_putBank_ne b' (chunkRegion_ne_or hm)).trans hc, fun j _ => ?_⟩
      rw [if_neg (by simpa using hm)]

theorem State.storeChunks_of_le {ks : List Nat} (hks : ∀ k ∈ ks, k ≤ s.romx.count) :
    ∃ s', s.storeChunks image ks = .ok s' ∧ State.StoresChunks image ks s s' := by
  induction ks generalizing s with
  | nil => exact ⟨s, rfl, .nil hs image⟩
  | cons k ks ih =>
    obtain ⟨hk, hks⟩ := List.forall_mem_cons.mp hks
    obtain ⟨s₁, hok, hstore⟩ := State.storeChunk_of_le hs image hk
    obtain ⟨s', hok', hstore'⟩ := ih hstore.inv (hstore.count ▸ hks)
    exact ⟨s', by simp only [State.storeChunks, hok, hok'], hstore.cons hstore'⟩

/-- The loader never faults: the pages that it has just made are as many as the image has chunks for (R59, R61 (a)). -/
theorem State.loadRom_storesChunks :
    ∃ s', s.loadRom image = .ok s' ∧
      State.StoresChunks image (List.range (chunkCount image.length)) (s.withRomPages image.length) s' := by
  refine State.storeChunks_of_le (State.withRomPages_inv hs _) image fun k hk => ?_
  have hlt := List.mem_range.mp hk
  have hle := chunkCount_le image.length
  rw [State.withRomPages_count]
  omega

end Loader

/-! ### Reset (R119) -/

theorem State.reset_inv : State.reset.Inv where
  rom0 := Bank.new_wf _
  romx := PagedBank.new_wf _ Nat.one_pos
  vram := Bank.new_wf _
  eram := Bank.new_wf _
  wram0 := Bank.new_wf _
  wramx := PagedBank.new_wf _ (Nat.succ_pos _)
  wramPages := List.length_replicate

theorem State.resetImage_storesChunks (image : List Byte) :
    State.StoresChunks image (List.range (chunkCount image.length)) (State.reset.withRomPages image.length)
      (State.resetImage image) := by
  obtain ⟨s', hok, hstore⟩ := State.loadRom_storesChunks State.reset_inv image
  have heq : State.resetImage image = s' := by simp only [State.resetImage, hok]
  exact heq ▸ hstore

theorem PagedBank.page_new {r : Region} {count capacity page : Nat} (h : page < count) :
    (PagedBank.new count capacity).page r page = .ok (Bank.new capacity) := by
  rw [PagedBank.page_ok_iff]
  exact List.getElem?_replicate_of_lt h

/-- After a reset the bank of chunk `k` reads the image's bytes from `k * P` on, and 0x00 beyond the image (R58, R61). -/
theorem State.resetImage_chunkBank (image : List Byte) {k : Nat} (hk : k ≤ romPages image.length) :
    ∃ b, (State.resetImage image).chunkBank k = .ok b ∧ ∀ j < Config.romBankSize,
      Memory.read b.cells j = image.getD (k * Config.romBankSize + j) 0x00#8 := by
  have hfresh : (State.reset.withRomPages image.length).chunkBank k = .ok (Bank.new Config.romBankSize) := by
    cases k with
    | zero => rfl
    | succ page => exact PagedBank.page_new hk
  obtain ⟨b, hb, hread⟩ := (State.resetImage_storesChunks image).bytes k _ hfresh
  refine ⟨b, hb, fun j hj => (hread j hj).trans ?_⟩
  by_cases hmem : k ∈ List.range (chunkCount image.length)
  · rw [if_pos hmem]
    rfl
  · have hlen := length_le_of_chunkCount_le (Nat.not_lt.mp (List.mem_range.not.mp hmem))
    rw [if_neg hmem, List.getD_eq_default _ _ (by omega)]
    rfl

/-- After a reset every bank of RAM is fresh (R36). -/
theorem State.resetImage_ramBank (image : List Byte) {r : Region} {page : Nat} (hrom : r ≠ .rom0) (hromx : r ≠ .romx)
    (hpage : page < Config.wramPages) : (State.resetImage image).selectBank r page = .ok (Bank.new r.capacity) := by
  obtain ⟨hvram, heram, hwram0, hwramx⟩ := (State.resetImage_storesChunks image).ram
  cases r with
  | rom0 => exact absurd rfl hrom
  | romx => exact absurd rfl hromx
  | vram => exact congrArg _ hvram
  | eram => exact congrArg _ heram
  | wram0 => exact congrArg _ hwram0
  | wramx =>
    rw [State.selectBank, hwramx]
    exact PagedBank.page_new hpage

/-! ### The obligations -/

/-- Settles O26, by what storing the chunks does. -/
theorem loaderNeverFaults : Obligations.LoaderNeverFaults := by
  intro s image hs
  obtain ⟨s', hok, hstore⟩ := State.loadRom_storesChunks hs image
  exact ⟨s', hok, hstore.inv, hstore.count.trans (State.withRomPages_count _ _), hstore.registers, hstore.ram.vram,
    hstore.ram.eram, hstore.ram.wram0, hstore.ram.wramx⟩

/-- Settles O27: the fixed window is the bank of chunk 0, page `j` of the switchable window that of chunk `j + 1`. -/
theorem resetPlacesTheImage : Obligations.ResetPlacesTheImage := by
  intro image addr page
  have hs := (State.resetImage_storesChunks image).inv
  refine ⟨fun hlt => ?_, fun hlo hhi hpage => ?_⟩
  · obtain ⟨b, hb, hread⟩ := State.resetImage_chunkBank image (Nat.zero_le _)
    have hr : regionOf addr = .ok .rom0 := regionOf_ok_iff.mpr ⟨Nat.zero_le _, hlt⟩
    have hbyte := hread addr.toNat hlt
    rw [Nat.zero_mul, Nat.zero_add] at hbyte
    exact (State.read8_of_resolve (State.resolve_of_ok hr (page := page) hb) hs).trans (congrArg _ hbyte)
  · obtain ⟨b, hb, hread⟩ := State.resetImage_chunkBank image (k := page + 1) hpage
    have hr : regionOf addr = .ok .romx := regionOf_ok_iff.mpr ⟨hlo, hhi⟩
    have hbyte := hread (addr.toNat - 0x4000) (by simp only [Config.romBankSize]; omega)
    exact (State.read8_of_resolve (State.resolve_of_ok hr (page := page) hb) hs).trans (congrArg _ hbyte)

/-- Settles O28: the loader touches the ROM only, and the rest is the reset state's. -/
theorem resetClearsTheRest : Obligations.ResetClearsTheRest := by
  intro image
  have hstore := State.resetImage_storesChunks image
  obtain ⟨hreg, hsp, hpc, hst⟩ := hstore.registers
  refine ⟨fun n => (hreg n).trans (by cases n <;> rfl), hsp, hpc, hst, hstore.count.trans (State.withRomPages_count _ _),
    hstore.inv.wramPages, fun addr page hlo hhi hpage => ?_⟩
  rcases regionOf_cases addr with ⟨r, -, hr⟩ | ⟨hge, -⟩
  · obtain ⟨-, hwindow⟩ := regionOf_ok_iff.mp hr
    have hrom : r ≠ .rom0 := by
      rintro rfl
      simp only [Region.base, Region.capacity, Config.romBankSize] at hwindow
      omega
    have hromx : r ≠ .romx := by
      rintro rfl
      simp only [Region.base, Region.capacity, Config.romBankSize] at hwindow
      omega
    exact State.read8_of_resolve (State.resolve_of_ok hr (State.resetImage_ramBank image hrom hromx hpage)) hstore.inv
  · omega

/-- Settles O29: an empty image has no chunk to store and needs one page. -/
theorem resetStateIsTheEmptyImages : Obligations.ResetStateIsTheEmptyImages := rfl

/-- Settles O30, by the reset state's fresh banks and by what storing the chunks keeps. -/
theorem resetMeetsTheInvariant : Obligations.ResetMeetsTheInvariant :=
  ⟨State.reset_inv, fun image => (State.resetImage_storesChunks image).inv⟩

end Sys2Proof.Machine
end

section
/-! The storage invariant over steps and host transactions (10_state.md section 7), and the latch under the host's hands
(60_exceptions.md sections 4 and 5). -/

namespace Sys2Proof.Machine

/-! ### The invariant is about storage alone -/

theorem State.Inv.of_sameMemory {s t : State} (hs : s.Inv) (h : s.SameMemory t) : t.Inv := by
  obtain ⟨hrom0, hromx, hvram, heram, hwram0, hwramx⟩ := h
  constructor
  · exact hrom0 ▸ hs.rom0
  · exact hromx ▸ hs.romx
  · exact hvram ▸ hs.vram
  · exact heram ▸ hs.eram
  · exact hwram0 ▸ hs.wram0
  · exact hwramx ▸ hs.wramx
  · exact hwramx ▸ hs.wramPages

theorem State.setPc_sameMemory (s : State) (v : Word) : s.SameMemory (s.setPc v) := ⟨rfl, rfl, rfl, rfl, rfl, rfl⟩

/-! ### What a transaction can leave -/

/-- Every transaction but a reset keeps the latch; it leaves the storage as it was or replaces one bank. -/
theorem State.perform_memory_cases (s : State) (tr : Transaction) :
    ((s.perform tr).1.status = s.status ∧
      (s.SameMemory (s.perform tr).1 ∨ ∃ r page b, (s.perform tr).1 = s.putBank r page b)) ∨
    ∃ image, tr = .reset image ∧ s.perform tr = (State.resetImage image, .done) := by
  rcases s.perform_cases tr with h | ⟨n, v, -, h⟩ | ⟨p, v, -, h⟩ | ⟨v, -, h⟩ | ⟨v, -, h⟩ |
    ⟨addr, page, v, s', -, hw, h⟩ | ⟨addr, page, v, s', -, hw, h⟩ | hreset
  · rw [h]
    exact .inl ⟨rfl, .inl ⟨rfl, rfl, rfl, rfl, rfl, rfl⟩⟩
  · rw [h]
    exact .inl ⟨s.setR_status n v, .inl (s.setR_sameMemory n v)⟩
  · rw [h]
    exact .inl ⟨s.setPair_status p v, .inl (s.setPair_sameMemory p v)⟩
  · rw [h]
    exact .inl ⟨s.setSp_status v, .inl (s.setSp_sameMemory v)⟩
  · rw [h]
    exact .inl ⟨s.setPc_status v, .inl (s.setPc_sameMemory v)⟩
  · obtain ⟨t, b, -, -, rfl⟩ := State.write8_ok hw
    rw [h]
    exact .inl ⟨s.putBank_status _ _ _, .inr ⟨_, _, _, rfl⟩⟩
  · obtain ⟨t, b, b', -, -, -, -, rfl⟩ := State.write16_ok hw
    rw [h]
    exact .inl ⟨s.putBank_status _ _ _, .inr ⟨_, _, _, rfl⟩⟩
  · exact .inr hreset

theorem State.perform_inv {s : State} (hs : s.Inv) (tr : Transaction) : (s.perform tr).1.Inv := by
  rcases s.perform_cases tr with h | ⟨n, v, -, h⟩ | ⟨p, v, -, h⟩ | ⟨v, -, h⟩ | ⟨v, -, h⟩ |
    ⟨addr, page, v, s', -, hw, h⟩ | ⟨addr, page, v, s', -, hw, h⟩ | ⟨image, -, h⟩ <;> rw [h]
  · exact hs
  · exact hs.of_sameMemory (s.setR_sameMemory n v)
  · exact hs.of_sameMemory (s.setPair_sameMemory p v)
  · exact hs.of_sameMemory (s.setSp_sameMemory v)
  · exact hs.of_sameMemory (s.setPc_sameMemory v)
  · exact State.write8_inv hs hw
  · exact State.write16_inv hs hw
  · exact (State.resetImage_storesChunks image).inv

theorem State.perform_romx_count (s : State) {tr : Transaction} (htr : ∀ image, tr ≠ .reset image) :
    (s.perform tr).1.romx.count = s.romx.count := by
  rcases s.perform_memory_cases tr with ⟨-, ⟨-, hromx, -⟩ | ⟨r, page, b, h⟩⟩ | ⟨image, h, -⟩
  · rw [hromx]
  · rw [h, s.putBank_romx_count]
  · exact absurd h (htr image)

/-- A transaction that answers a fault was refused before it changed anything (R113). -/
theorem State.perform_of_fault {s : State} {tr : Transaction} {f : Fault} (hf : (s.perform tr).2 = .fault f) :
    (s.perform tr).1 = s := by
  rcases s.perform_cases tr with h | ⟨_, _, -, h⟩ | ⟨_, _, -, h⟩ | ⟨_, -, h⟩ | ⟨_, -, h⟩ | ⟨_, _, _, _, -, -, h⟩ |
    ⟨_, _, _, _, -, -, h⟩ | ⟨_, -, h⟩
  · exact h
  all_goals
    rw [h] at hf
    cases hf

theorem State.resetImage_status (image : List Byte) : (State.resetImage image).status = .running := by
  obtain ⟨-, -, -, hst⟩ := (State.resetImage_storesChunks image).registers
  exact hst

/-! ### What a step keeps -/

theorem step_sameMemory {s t : State} (h : step s = .next t) : s.SameMemory t := by
  obtain ⟨e, rfl⟩ := eq_apply_of_step h
  exact (e.apply_frame s).1

/-! ### The obligations -/

/-- Settles O49: a step does not touch the storage. -/
theorem stepKeepsTheInvariant : Obligations.StepKeepsTheInvariant := by
  intro s t hs ht
  obtain ⟨-, hromx, -, -, -, hwramx⟩ := step_sameMemory ht
  exact ⟨hs.of_sameMemory (step_sameMemory ht), congrArg _ hromx, congrArg _ hwramx⟩

/-- Settles O50: a transaction writes a register, writes bytes into one bank, or resets. -/
theorem hostKeepsTheInvariant : Obligations.HostKeepsTheInvariant := by
  intro s tr hs
  exact ⟨State.perform_inv hs tr, s.perform_romx_count⟩

/-- Settles O51, by induction on how the state was reached. -/
theorem reachableStatesAreWellShaped : Obligations.ReachableStatesAreWellShaped := by
  intro s hreach
  have hs : s.Inv := by
    induction hreach with
    | reset image => exact (State.resetImage_storesChunks image).inv
    | step _ ht ih => exact (stepKeepsTheInvariant _ _ ih ht).1
    | host _ tr ih => exact State.perform_inv ih tr
  exact ⟨hs, fun addr => State.memRead8_mapped hs⟩

/-- Settles O48, by what a transaction can leave: the latch is written by a reset alone. -/
theorem onlyResetLeavesFaulted : Obligations.OnlyResetLeavesFaulted := by
  intro s tr
  refine ⟨fun htr => ?_, fun f => State.perform_of_fault, ?_, s.perform_getStatus, fun f t hst ht => ?_⟩
  · rcases s.perform_memory_cases tr with ⟨hst, -⟩ | ⟨image, h, -⟩
    · exact hst
    · exact absurd h (htr image)
  · rintro image rfl
    exact ⟨s.perform_reset image, State.resetImage_status image⟩
  · cases (step_of_faulted hst).symm.trans ht
    exact hst

end Sys2Proof.Machine
end

section
/-! Whole steps (40_fetch_dispatch.md, 60_exceptions.md section 3): what each instruction's meaning leaves, when the operand
can be fetched, and runs of many steps. -/

namespace Sys2Proof.Machine

/-! ### Instructions by format (R69) -/

theorem ne_undefined_of_opN8 {op : Byte} {g : Byte → Instr} (h : decodeOpcode op = .opN8 g) (n op' : Byte) :
    g n ≠ .undefined op' := by
  rcases opcode_of_opN8 h with ⟨-, rfl⟩ | ⟨-, rfl⟩ <;> exact nofun

theorem ne_undefined_of_opN16 {op : Byte} {g : Word → Instr} (h : decodeOpcode op = .opN16 g) (nn : Word) (op' : Byte) :
    g nn ≠ .undefined op' := by
  rcases opcode_of_opN16 h with ⟨-, rfl⟩ | ⟨-, rfl⟩ <;> exact nofun

theorem instrLength_of_opN16 {op : Byte} {g : Word → Instr} (h : decodeOpcode op = .opN16 g) (nn : Word) :
    instrLength (g nn) = 3 := by
  rcases opcode_of_opN16 h with ⟨-, rfl⟩ | ⟨-, rfl⟩ <;> rfl

/-! ### What a meaning leaves -/

section Meaning

variable {i : Instr} (s : State)

theorem execResult_status (hi : ∀ op, i ≠ .undefined op) : (execResult i s).status = s.status := by
  cases i with
  | nop | jumpNn | xorAA | loadHLnn | loadCn | loadBn => rfl
  | undefined op => exact absurd rfl (hi op)

/-- A register that is no destination keeps its value (R16). -/
theorem execResult_getR {n : Reg8} (hn : n ∉ destinations i) : (execResult i s).getR n = s.getR n := by
  cases i with
  | nop | jumpNn | undefined => cases n <;> rfl
  | xorAA | loadHLnn | loadCn | loadBn => cases n <;> simp [destinations, execResult] at hn ⊢

/-- From the opcode's address to the end of the instruction, JUMP excepted (R83, R87). -/
theorem execResult_pc (hi : ∀ nn, i ≠ .jumpNn nn) (hu : ∀ op, i ≠ .undefined op) :
    (execResult i (s.advancePc 1)).pc = s.pc + BitVec.ofNat 16 (instrLength i) := by
  cases i with
  | nop | xorAA => rfl
  | loadHLnn | loadCn | loadBn => exact BitVec.add_assoc ..
  | jumpNn nn => exact absurd rfl (hi nn)
  | undefined op => exact absurd rfl (hu op)

/-- Where the instruction ends at 0xE000 or below, that is no wrap (R87). -/
theorem execResult_pc_toNat (hi : ∀ nn, i ≠ .jumpNn nn) (hu : ∀ op, i ≠ .undefined op)
    (hle : s.pc.toNat + instrLength i ≤ 0xE000) :
    (execResult i (s.advancePc 1)).pc.toNat = s.pc.toNat + instrLength i ∧
      (execResult i (s.advancePc 1)).pc.toNat ≤ 0xE000 := by
  have hlen : (BitVec.ofNat 16 (instrLength i)).toNat = instrLength i := Nat.mod_eq_of_lt (by omega)
  have hpc : (execResult i (s.advancePc 1)).pc.toNat = s.pc.toNat + instrLength i := by
    rw [execResult_pc s hi hu, BitVec.toNat_add_of_lt (by omega), hlen]
  exact ⟨hpc, hpc ▸ hle⟩

/-- The decode fault records the address that the opcode was fetched from (R86, R103). -/
theorem execResult_undefined_advancePc (op : Byte) :
    execResult (.undefined op) (s.advancePc 1) = (s.advancePc 1).takeFault (decodeFault op s.pc) := by
  simp only [execResult, State.advancePc_pc, BitVec.add_sub_cancel]

end Meaning

theorem decodeFault_eq (op : Byte) (addr : Word) :
    decodeFault op addr = if op ∈ illegalOpcodes then .illegalOpcode op addr else .unimplementedOpcode op addr := by
  simp only [decodeFault, isIllegalOpcode, List.contains_iff_mem]

theorem decodeFault_ne_pageOutOfRange (op : Byte) (addr : Word) (r : Region) (n : Nat) :
    decodeFault op addr ≠ .pageOutOfRange r n := by
  rw [decodeFault_eq]
  split <;> exact nofun

/-! ### Operands -/

/-- Two bytes that can be read are the word, off the window's end, whatever the shape of the storage (R49). -/
theorem State.read16_of_read8 {s : State} {addr : Word} {page : Nat} {lo hi : Byte} (hend : isWindowEnd addr = false)
    (hlo : s.read8 addr page = .ok lo) (hhi : s.read8 (addr + 1#16) page = .ok hi) :
    s.read16 addr page = .ok (wordOf hi lo) := by
  cases ht : s.resolve addr page with
  | error f => cases (State.read8_of_resolve_error ht).symm.trans hlo
  | ok t =>
    simp only [State.read8, ht] at hlo
    simp only [State.read8, State.resolve_succ ht hend] at hhi
    have hhi' : t.bank.read t.id (t.off + 1) = .ok hi := hhi
    simp only [State.read16, ht, hlo, hhi']

/-- The address after a mapped one is mapped, or is 0xE000. -/
theorem succ_mapped_cases {addr : Word} (h : addr.toNat < 0xE000) :
    (addr = 0xDFFF#16 ∧ addr + 1#16 = 0xE000#16) ∨ (addr ≠ 0xDFFF#16 ∧ (addr + 1#16).toNat < 0xE000) := by
  by_cases heq : addr = 0xDFFF#16
  · exact .inl ⟨heq, by rw [heq]; rfl⟩
  · exact .inr ⟨heq, by bv_omega⟩

section Fetched

variable {s : State} {op : Byte} (hs : s.Inv) (hst : s.status = .running) (hop : s.memRead8 s.pc = .ok op)
include hs hst hop

/-- A step of the byte operand's format: the operand is unmapped after the last mapped opcode, and else it is there (R102). -/
theorem step_of_opN8_cases {g : Byte → Instr} (hfmt : decodeOpcode op = .opN8 g) :
    (s.pc = 0xDFFF#16 ∧ step s = .next ((s.advancePc 1).takeFault (.addressOutOfRange 0xE000#16))) ∨
    (s.pc ≠ 0xDFFF#16 ∧ ∃ n, step s = .next (execResult (g n) (s.advancePc 1))) := by
  rcases succ_mapped_cases (State.memRead8_ok_lt hop) with ⟨hpc, -⟩ | ⟨hpc, hlt⟩
  · refine .inl ⟨hpc, ?_⟩
    rw [step_of_opN8_unmapped hst hop hfmt hpc, s.takeFault_advancePc_of_last hpc]
  · obtain ⟨n, harg⟩ := State.memRead8_mapped hs hlt
    exact .inr ⟨hpc, n, step_of_opN8_ok hst hop hfmt harg⟩

/-- A step of the word operand's format: the operand is unmapped, or straddles its window's end, or is there (R50, R102). -/
theorem step_of_opN16_cases {g : Word → Instr} (hfmt : decodeOpcode op = .opN16 g) :
    (s.pc = 0xDFFF#16 ∧ step s = .next ((s.advancePc 1).takeFault (.addressOutOfRange 0xE000#16))) ∨
    (s.pc ≠ 0xDFFF#16 ∧ isWindowEnd (s.pc + 1#16) = true ∧ ∃ r, regionOf (s.pc + 1#16) = .ok r ∧
      step s = .next ((s.advancePc 1).takeFault (.outOfBounds (r.bankId 0) r.capacity))) ∨
    (s.pc ≠ 0xDFFF#16 ∧ isWindowEnd (s.pc + 1#16) = false ∧
      ∃ nn, step s = .next (execResult (g nn) (s.advancePc 1))) := by
  rcases succ_mapped_cases (State.memRead8_ok_lt hop) with ⟨hpc, -⟩ | ⟨hpc, hlt⟩
  · exact .inl ⟨hpc, step_of_opN16_unmapped hst hop hfmt hpc⟩
  · obtain ⟨t, ht, -⟩ := State.resolve_core hs hlt
    cases hend : isWindowEnd (s.pc + 1#16) with
    | true =>
      obtain ⟨hr, -⟩ := State.resolve_ok ht
      exact .inr (.inl ⟨hpc, rfl, _, hr, step_of_opN16_fault hst hop hfmt (State.memRead16_windowEnd hs hend hr)⟩)
    | false =>
      exact .inr (.inr ⟨hpc, rfl, _, step_of_opN16_ok hst hop hfmt (State.read16_of_resolve ht hs hend)⟩)

/-- The latch after such a step (R106). -/
theorem status_of_step_opN8 {t : State} {g : Byte → Instr} (hfmt : decodeOpcode op = .opN8 g) (ht : step s = .next t) :
    t.status = if s.pc = 0xDFFF#16 then .faulted (.addressOutOfRange 0xE000#16) else .running := by
  rcases step_of_opN8_cases hs hst hop hfmt with ⟨hpc, hstep⟩ | ⟨hpc, n, hstep⟩ <;> cases hstep.symm.trans ht
  · rw [if_pos hpc, State.takeFault_status]
  · rw [if_neg hpc, execResult_status _ (ne_undefined_of_opN8 hfmt n)]
    exact hst

/-- The latch after such a step (R106). -/
theorem status_of_step_opN16 {t : State} {g : Word → Instr} (hfmt : decodeOpcode op = .opN16 g) (ht : step s = .next t) :
    (s.pc = 0xDFFF#16 ∧ t.status = .faulted (.addressOutOfRange 0xE000#16)) ∨
    (s.pc ≠ 0xDFFF#16 ∧ isWindowEnd (s.pc + 1#16) = true ∧ ∃ r, regionOf (s.pc + 1#16) = .ok r ∧
      t.status = .faulted (.outOfBounds (r.bankId 0) r.capacity)) ∨
    (s.pc ≠ 0xDFFF#16 ∧ isWindowEnd (s.pc + 1#16) = false ∧ t.status = .running) := by
  rcases step_of_opN16_cases hs hst hop hfmt with ⟨hpc, hstep⟩ | ⟨hpc, hend, r, hr, hstep⟩ | ⟨hpc, hend, nn, hstep⟩ <;>
    cases hstep.symm.trans ht
  · exact .inl ⟨hpc, State.takeFault_status _ _⟩
  · exact .inr (.inl ⟨hpc, hend, r, hr, State.takeFault_status _ _⟩)
  · exact .inr (.inr ⟨hpc, hend, (execResult_status _ (ne_undefined_of_opN16 hfmt nn)).trans hst⟩)

end Fetched

/-- Where the operand's address is mapped and off every window's end, three bytes from the opcode on are mapped. -/
theorem add_three_le_of_not_windowEnd {addr : Word} (h : addr.toNat < 0xE000) (hne : addr ≠ 0xDFFF#16)
    (hend : isWindowEnd (addr + 1#16) = false) : addr.toNat + 3 ≤ 0xE000 := by
  have hnext : addr + 1#16 ≠ 0xDFFF#16 := by
    intro heq
    rw [heq] at hend
    cases hend
  bv_omega

/-! ### Code at an address -/

theorem State.codeAt_advancePc (s : State) (k : Nat) (addr : Word) (code : List Byte) :
    (s.advancePc k).CodeAt addr code ↔ s.CodeAt addr code := by
  induction code generalizing addr with
  | nil => exact Iff.rfl
  | cons v vs ih => simp only [State.CodeAt, State.memRead8_advancePc, ih]

/-- The step of code that decodes: the bytes that the core reads one by one are the operand that it fetches (R81, R85). -/
theorem step_of_codeAt {s : State} {i : Instr} {code : List Byte} (hst : s.status = .running)
    (hdec : decode code = .ok (i, [])) (hcode : s.CodeAt s.pc code)
    (hend : instrLength i = 3 → isWindowEnd (s.pc + 1#16) = false) : step s = .next (execResult i (s.advancePc 1)) := by
  rcases decode_cases hdec with ⟨op, rfl, hfmt⟩ | ⟨op, n, g, rfl, hfmt, rfl⟩ | ⟨op, lo, hi, g, rfl, hfmt, rfl⟩
  · obtain ⟨hop, -⟩ := hcode
    exact step_of_op hst hop hfmt
  · obtain ⟨hop, hn, -⟩ := hcode
    exact step_of_opN8_ok hst hop hfmt hn
  · obtain ⟨hop, hlo, hhi, -⟩ := hcode
    exact step_of_opN16_ok hst hop hfmt (State.read16_of_read8 (hend (instrLength_of_opN16 hfmt _)) hlo hhi)

/-! ### Runs -/

/-- A state that a step does not change is not changed by any number of steps. -/
theorem run_of_step_self {s : State} (h : step s = .next s) (k : Nat) : core.run k s = .next s := by
  induction k with
  | zero => rfl
  | succ k ih => rw [run_succ_of_step k h, ih]

/-- A zero byte runs as NOP, so zero bytes move PC on one by one (R127). -/
theorem run_of_zeroBytes (k : Nat) {s : State} (hst : s.status = .running)
    (hcode : s.CodeAt s.pc (List.replicate k 0x00#8)) : core.run k s = .next (s.advancePc k) := by
  induction k generalizing s with
  | zero => exact congrArg (fun pc => Host.Outcome.next { s with pc := pc }) (BitVec.add_zero s.pc).symm
  | succ k ih =>
    obtain ⟨hop, hrest⟩ := hcode
    have hstep : step s = .next (s.advancePc 1) := step_of_op hst hop decodeOpcode_nop
    have hrun := ih (s := s.advancePc 1) hst ((s.codeAt_advancePc 1 _ _).mpr hrest)
    rw [run_succ_of_step k hstep, hrun, State.advancePc_add, Nat.add_comm]

/-! ### The obligations -/

/-- Settles O7, by the read-after-write law of the registers. -/
theorem pairRoundTrip : Obligations.PairRoundTrip := by
  intro s p v x y
  refine ⟨?_, ?_⟩
  · rw [State.getPair, State.getR_setPair, State.getR_setPair, if_neg p.hi_ne_lo, if_pos rfl, if_pos rfl,
      wordOf_highByte_lowByte]
  · rw [State.getPair, State.getR_setR, State.getR_setR, State.getR_setR, if_neg p.hi_ne_lo, if_pos rfl, if_pos rfl]
    rfl

/-- Settles O31: the bytes at PC are the opcode and the operand that the step fetches. -/
theorem stepRunsTheDecodedInstruction : Obligations.StepRunsTheDecodedInstruction := by
  intro s i code hst hdec hcode hend
  exact (step_of_codeAt hst hdec hcode hend).trans (exec_eq i _).symm

/-- Settles O33: UNDEFINED takes no operand, and its meaning takes the decode fault. -/
theorem undefinedOpcodeStep : Obligations.UndefinedOpcodeStep := by
  intro s op hst hop hundef
  have hundef' : op ∉ definedOpcodes := by
    simp only [definedOpcodes, List.mem_cons] at hundef ⊢
    tauto
  rw [step_of_op hst hop (decodeOpcode_undefined hundef'), execResult_undefined_advancePc, decodeFault_eq]
  rfl

/-- Settles O40, by the next state that each meaning gives. -/
theorem everyInstructionCompletes : Obligations.EveryInstructionCompletes := by
  intro s n nn
  exact ⟨rfl, rfl, (exec_eq .xorAA s).trans (congrArg _ (s.writeXor_self _)), rfl, rfl, rfl, rfl⟩

/-- Settles O41, by the frame of the meanings. -/
theorem instructionFrame : Obligations.InstructionFrame := by
  intro i s t ht
  cases (exec_eq i s).symm.trans ht
  obtain ⟨hmem, hsp, -⟩ := execResult_frame i s
  refine ⟨fun n => execResult_getR s, hsp, hmem, State.read8_congr hmem, execResult_status s, ?_⟩
  rintro op rfl
  exact ⟨rfl, rfl⟩

/-- Settles O44: the opcode's format says which operand is fetched, and the operand's address which fault is taken. -/
theorem faultsOfAStep : Obligations.FaultsOfAStep := by
  intro s t hs hst ht
  by_cases hpc : 0xE000 ≤ s.pc.toNat
  · cases (step_of_unmapped_pc hst hpc).symm.trans ht
    exact .inl ⟨hpc, rfl⟩
  obtain ⟨op, hop⟩ := State.memRead8_mapped hs (Nat.not_le.mp hpc)
  refine .inr ⟨op, hop, ?_⟩
  cases hfmt : decodeOpcode op with
  | op i =>
    cases (step_of_op hst hop hfmt).symm.trans ht
    rcases opcode_of_op hfmt with ⟨rfl, rfl⟩ | ⟨rfl, rfl⟩ | ⟨hundef, rfl⟩
    · simpa [definedOpcodes, execResult] using hst
    · simpa [definedOpcodes, execResult] using hst
    · rw [if_pos hundef, execResult_undefined_advancePc, State.takeFault_status]
  | opN8 g =>
    have hstatus := status_of_step_opN8 hs hst hop hfmt ht
    rcases opcode_of_opN8 hfmt with ⟨rfl, -⟩ | ⟨rfl, -⟩ <;> simp [definedOpcodes, hstatus]
  | opN16 g =>
    rcases status_of_step_opN16 hs hst hop hfmt ht with ⟨hpc, h⟩ | ⟨hpc, hend, r, hr, h⟩ | ⟨hpc, hend, h⟩
    · rcases opcode_of_opN16 hfmt with ⟨rfl, -⟩ | ⟨rfl, -⟩ <;> simp [definedOpcodes, h, hpc]
    · rcases opcode_of_opN16 hfmt with ⟨rfl, -⟩ | ⟨rfl, -⟩ <;> simp [definedOpcodes, h, hpc, hend, hr]
    · rcases opcode_of_opN16 hfmt with ⟨rfl, -⟩ | ⟨rfl, -⟩ <;> simp [definedOpcodes, h, hpc, hend]

/-- Settles O45, by the cases of a step: the two fetches fault before anything else changes, and of the meanings only
UNDEFINED's takes a fault. -/
theorem faultingStepIsPrecise : Obligations.FaultingStepIsPrecise := by
  intro s t f hst ht hf
  rcases step_cases s with ⟨_, hst', -⟩ | ⟨-, ⟨g, hop, h⟩ | ⟨op, g, hop, -, h⟩ | ⟨op, i, hop, -, h⟩⟩
  · cases hst.symm.trans hst'
  · cases h.symm.trans ht
    cases hf
    exact .inl ⟨rfl, hop⟩
  · cases h.symm.trans ht
    cases hf
    exact .inr ⟨rfl, op, hop⟩
  · cases h.symm.trans ht
    cases i with
    | undefined op' =>
      cases hf
      exact .inr ⟨rfl, op, hop⟩
    | nop | jumpNn | xorAA | loadHLnn | loadCn | loadBn => cases hst.symm.trans hf

/-- Settles O46: the table of a step's faults has no PageOutOfRange. -/
theorem noPageFaultInAStep : Obligations.NoPageFaultInAStep := by
  intro s t hs hst ht r i hpage
  rcases faultsOfAStep s t hs hst ht with ⟨-, h⟩ | ⟨op, -, h⟩
  · cases h.symm.trans hpage
  · rw [h] at hpage
    split at hpage
    · exact decodeFault_ne_pageOutOfRange _ _ _ _ (Status.faulted.inj hpage)
    · split at hpage
      · cases hpage
      · split at hpage
        · split at hpage <;> cases hpage
        · cases hpage

/-- Settles O47: a step of a faulted machine answers the same state. -/
theorem faultedMachineDoesNothing : Obligations.FaultedMachineDoesNothing :=
  fun _ _ k hst => run_of_step_self (step_of_faulted hst) k

/-- Settles O53: an instruction whose operand was fetched ends at 0xE000 or below. -/
theorem programCounterNeverWraps : Obligations.ProgramCounterNeverWraps := by
  intro s t op hs ht hrun hop hjump
  have hmapped := State.memRead8_ok_lt hop
  have hst : s.status = .running := by
    rcases step_cases s with ⟨f, hst, hstep⟩ | ⟨hst, -⟩
    · cases hstep.symm.trans ht
      exact hrun
    · exact hst
  cases hfmt : decodeOpcode op with
  | op i =>
    cases (step_of_op hst hop hfmt).symm.trans ht
    rcases opcode_of_op hfmt with ⟨rfl, rfl⟩ | ⟨rfl, rfl⟩ | ⟨-, rfl⟩
    · exact execResult_pc_toNat s nofun nofun hmapped
    · exact execResult_pc_toNat s nofun nofun hmapped
    · cases hrun
  | opN8 g =>
    rcases step_of_opN8_cases hs hst hop hfmt with ⟨-, hstep⟩ | ⟨hpc, n, hstep⟩ <;> cases hstep.symm.trans ht
    · cases hrun
    · have hend : s.pc.toNat + 2 ≤ 0xE000 := by bv_omega
      rcases opcode_of_opN8 hfmt with ⟨rfl, rfl⟩ | ⟨rfl, rfl⟩ <;> exact execResult_pc_toNat s nofun nofun hend
  | opN16 g =>
    rcases step_of_opN16_cases hs hst hop hfmt with ⟨-, hstep⟩ | ⟨-, -, r, -, hstep⟩ | ⟨hpc, hend, nn, hstep⟩ <;>
      cases hstep.symm.trans ht
    · cases hrun
    · cases hrun
    · rcases opcode_of_opN16 hfmt with ⟨rfl, -⟩ | ⟨rfl, rfl⟩
      · exact absurd rfl hjump
      · exact execResult_pc_toNat s nofun nofun (add_three_le_of_not_windowEnd hmapped hpc hend)

/-- Settles O54, by induction on the number of bytes. -/
theorem zeroBytesRunAsNops : Obligations.ZeroBytesRunAsNops :=
  fun k _ => run_of_zeroBytes k

/-- Settles O55: the jump's meaning sets PC to where it was. -/
theorem selfJumpIdles : Obligations.SelfJumpIdles := by
  intro k s lo hi hst hend hcode hself
  refine run_of_step_self ?_ k
  have hstep := step_of_codeAt hst (decode_of_opN16 decodeOpcode_jump lo hi []) hcode fun _ => hend
  rw [hstep, wordOf, hself]
  rfl

end Sys2Proof.Machine
end
